-- ==== Sys2Proof/Word.lean ====
section
/-! DEFINITION. The widths of the block: the 32-bit datapath word (00_scope.md R6), the byte of the host's packing
(20_memory.md R33) and the 37-bit transaction word (30_encoding.md R45). Arithmetic on words is `BitVec`'s own: `+`, `-` and `*`
wrap modulo 2^32 (00_scope.md R7, R10), `<<<` and `>>>` are the logical shifts of R8, `^^^` is the XOR of R9. -/

namespace Sys2Proof

/-- A 32-bit datapath word (00_scope.md R6). -/
abbrev Word := BitVec 32

/-- A byte of a key or a block as the host holds it (20_memory.md R33). -/
abbrev Byte := BitVec 8

/-- A host transaction word `T[36:0]` (30_encoding.md R45). -/
abbrev TxnWord := BitVec 37

end Sys2Proof
end

