-- ==== Sys2Proof/Syntax.lean ====
section
/-! DEFINITION. The names of the host's side of the block: the direction of an operation, the sixteen indices of the register
window, and the host transactions, one constructor of `Instr` per row of spec/opcode_table.json. -/

namespace Sys2Proof

/-- `Mode` takes one of two values (00_scope.md R11). -/
inductive Mode where
  | encrypt
  | decrypt
deriving DecidableEq, Repr

/-- The register window (10_state.md R14; the names are those of 30_encoding.md R56). -/
inductive Reg where
  | ctrl                  -- IDX 0
  | status                -- IDX 1
  | rounds                -- IDX 2
  | count                 -- IDX 3
  | key (n : Fin 4)       -- IDX 4 + n
  | data (n : Fin 2)      -- IDX 8 + n
  | sum                   -- IDX 10
  | rsvd11                -- IDX 11, reserved
  | rsvd12 (n : Fin 4)    -- IDX 12 + n, reserved
deriving DecidableEq, Repr

/-- A host transaction, one constructor per row of the opcode map (30_encoding.md R51). A read carries no operand, because WDATA has
no effect on it (R47); a write carries the WDATA it spells, reserved and ignored bits included, so that no bit of it is lost. The two rows
of RD_RSVD and the two of WR_RSVD are two constructors each. -/
inductive Instr where
  | rdCtrl                                      -- RD_CTRL      41_register_access.md R82
  | wrCtrl (wdata : Word)                       -- WR_CTRL      42_commands.md R99
  | cmdEncrypt (wdata : Word)                   -- CMD_ENCRYPT  42_commands.md R100
  | cmdDecrypt (wdata : Word)                   -- CMD_DECRYPT  42_commands.md R101
  | rdStatus                                    -- RD_STATUS    41_register_access.md R83
  | wrStatus (wdata : Word)                     -- WR_STATUS    41_register_access.md R84
  | rdRounds                                    -- RD_ROUNDS    41_register_access.md R85
  | wrRounds (wdata : Word)                     -- WR_ROUNDS    41_register_access.md R86
  | rdCount                                     -- RD_COUNT     41_register_access.md R87
  | wrCount (wdata : Word)                      -- WR_COUNT     41_register_access.md R88
  | rdKey (n : Fin 4)                           -- RD_KEY       41_register_access.md R90
  | wrKey (n : Fin 4) (wdata : Word)            -- WR_KEY       41_register_access.md R89
  | rdData (n : Fin 2)                          -- RD_DATA      41_register_access.md R92
  | wrData (n : Fin 2) (wdata : Word)           -- WR_DATA      41_register_access.md R91
  | rdSum                                       -- RD_SUM       41_register_access.md R93
  | wrSum (wdata : Word)                        -- WR_SUM       41_register_access.md R88
  | rdRsvd11                                    -- RD_RSVD      41_register_access.md R94, IDX 11
  | rdRsvd12 (n : Fin 4)                        -- RD_RSVD      41_register_access.md R94, IDX 12 + n
  | wrRsvd11 (wdata : Word)                     -- WR_RSVD      41_register_access.md R95, IDX 11
  | wrRsvd12 (n : Fin 4) (wdata : Word)         -- WR_RSVD      41_register_access.md R95, IDX 12 + n
deriving DecidableEq, Repr

end Sys2Proof
end

