-- ==== Sys2Proof/WellFormed.lean ====
section
/-! DEFINITION. Which terms of `Instr` a transaction word can spell: the WDATA conditions of the opcode map (30_encoding.md R51). Every
other operand value of every row is legal. -/

namespace Sys2Proof

/-- START, bit 0 of the command word (30_encoding.md R49), is the condition the row asks for. -/
def Word.startIs (b : Bool) (wdata : Word) : Bool := wdata.getLsbD 0 == b

/-- MODE, bit 1 of the command word (30_encoding.md R49), is the condition the row asks for. -/
def Word.modeIs (b : Bool) (wdata : Word) : Bool := wdata.getLsbD 1 == b

/-- The WDATA condition of the instruction's row holds (30_encoding.md R51). -/
def Instr.wellFormed (i : Instr) : Bool :=
  match i with
  | .rdCtrl => true
  | .wrCtrl wdata => Word.startIs false wdata
  | .cmdEncrypt wdata => Word.startIs true wdata && Word.modeIs false wdata
  | .cmdDecrypt wdata => Word.startIs true wdata && Word.modeIs true wdata
  | .rdStatus => true
  | .wrStatus _ => true
  | .rdRounds => true
  | .wrRounds _ => true
  | .rdCount => true
  | .wrCount _ => true
  | .rdKey _ => true
  | .wrKey _ _ => true
  | .rdData _ => true
  | .wrData _ _ => true
  | .rdSum => true
  | .wrSum _ => true
  | .rdRsvd11 => true
  | .rdRsvd12 _ => true
  | .wrRsvd11 _ => true
  | .wrRsvd12 _ _ => true

end Sys2Proof
end

