-- ==== Sys2Proof/Decode.lean ====
section
/-! DEFINITION. The transaction word (30_encoding.md R45), the total decoder over 37-bit words (R51, R58), the encoder that gives every
row its canonical word (R47), and the opcode map itself as a table of masks and patterns. -/

namespace Sys2Proof

/-- `T[36]`, WE: 0 = read, 1 = write (30_encoding.md R45). -/
def TxnWord.we (t : TxnWord) : Bool := t.getLsbD 36

/-- `T[35:32]`, IDX (30_encoding.md R45). -/
def TxnWord.idx (t : TxnWord) : BitVec 4 := t.extractLsb' 32 4

/-- `T[31:0]`, WDATA (30_encoding.md R45). -/
def TxnWord.wdata (t : TxnWord) : Word := t.extractLsb' 0 32

/-- The word with the three fields given, WE in the most significant place (30_encoding.md R45). -/
def TxnWord.mk (we : Bool) (idx : BitVec 4) (wdata : Word) : TxnWord :=
  BitVec.ofBool we ++ idx ++ wdata

/-- The register at an index (10_state.md R14). -/
def Reg.ofIdx (idx : BitVec 4) : Reg :=
  match idx with
  | 0#4 => .ctrl
  | 1#4 => .status
  | 2#4 => .rounds
  | 3#4 => .count
  | 4#4 => .key 0
  | 5#4 => .key 1
  | 6#4 => .key 2
  | 7#4 => .key 3
  | 8#4 => .data 0
  | 9#4 => .data 1
  | 10#4 => .sum
  | 11#4 => .rsvd11
  | 12#4 => .rsvd12 0
  | 13#4 => .rsvd12 1
  | 14#4 => .rsvd12 2
  | _ => .rsvd12 3

/-- The index of a register (10_state.md R14). -/
def Reg.idx (r : Reg) : BitVec 4 :=
  match r with
  | .ctrl => 0#4
  | .status => 1#4
  | .rounds => 2#4
  | .count => 3#4
  | .key n => BitVec.ofNat 4 (4 + n.val)
  | .data n => BitVec.ofNat 4 (8 + n.val)
  | .sum => 10#4
  | .rsvd11 => 11#4
  | .rsvd12 n => BitVec.ofNat 4 (12 + n.val)

/-- The read row of a register (30_encoding.md R51). -/
def Reg.readInstr (r : Reg) : Instr :=
  match r with
  | .ctrl => .rdCtrl
  | .status => .rdStatus
  | .rounds => .rdRounds
  | .count => .rdCount
  | .key n => .rdKey n
  | .data n => .rdData n
  | .sum => .rdSum
  | .rsvd11 => .rdRsvd11
  | .rsvd12 n => .rdRsvd12 n

/-- The row of a write to CTRL, by bits 0 and 1 of the command word (30_encoding.md R51). -/
def ctrlWriteInstr (wdata : Word) : Instr :=
  match wdata.getLsbD 0, wdata.getLsbD 1 with
  | false, _ => .wrCtrl wdata
  | true, false => .cmdEncrypt wdata
  | true, true => .cmdDecrypt wdata

/-- The write row of a register (30_encoding.md R51). -/
def Reg.writeInstr (r : Reg) (wdata : Word) : Instr :=
  match r with
  | .ctrl => ctrlWriteInstr wdata
  | .status => .wrStatus wdata
  | .rounds => .wrRounds wdata
  | .count => .wrCount wdata
  | .key n => .wrKey n wdata
  | .data n => .wrData n wdata
  | .sum => .wrSum wdata
  | .rsvd11 => .wrRsvd11 wdata
  | .rsvd12 n => .wrRsvd12 n wdata

/-- The decoder, total over 37-bit words (30_encoding.md R51, R58). A read ignores WDATA (R47). -/
def decode (t : TxnWord) : Instr :=
  match TxnWord.we t with
  | false => Reg.readInstr (Reg.ofIdx (TxnWord.idx t))
  | true => Reg.writeInstr (Reg.ofIdx (TxnWord.idx t)) (TxnWord.wdata t)

/-- The canonical word of an instruction: WDATA = 0 for a read (30_encoding.md R47), the row's WE and IDX and the operand WDATA for a
write (R45, R51). -/
def encode (i : Instr) : TxnWord :=
  match i with
  | .rdCtrl => TxnWord.mk false 0#4 0#32
  | .wrCtrl wdata => TxnWord.mk true 0#4 wdata
  | .cmdEncrypt wdata => TxnWord.mk true 0#4 wdata
  | .cmdDecrypt wdata => TxnWord.mk true 0#4 wdata
  | .rdStatus => TxnWord.mk false 1#4 0#32
  | .wrStatus wdata => TxnWord.mk true 1#4 wdata
  | .rdRounds => TxnWord.mk false 2#4 0#32
  | .wrRounds wdata => TxnWord.mk true 2#4 wdata
  | .rdCount => TxnWord.mk false 3#4 0#32
  | .wrCount wdata => TxnWord.mk true 3#4 wdata
  | .rdKey n => TxnWord.mk false (BitVec.ofNat 4 (4 + n.val)) 0#32
  | .wrKey n wdata => TxnWord.mk true (BitVec.ofNat 4 (4 + n.val)) wdata
  | .rdData n => TxnWord.mk false (BitVec.ofNat 4 (8 + n.val)) 0#32
  | .wrData n wdata => TxnWord.mk true (BitVec.ofNat 4 (8 + n.val)) wdata
  | .rdSum => TxnWord.mk false 10#4 0#32
  | .wrSum wdata => TxnWord.mk true 10#4 wdata
  | .rdRsvd11 => TxnWord.mk false 11#4 0#32
  | .rdRsvd12 n => TxnWord.mk false (BitVec.ofNat 4 (12 + n.val)) 0#32
  | .wrRsvd11 wdata => TxnWord.mk true 11#4 wdata
  | .wrRsvd12 n wdata => TxnWord.mk true (BitVec.ofNat 4 (12 + n.val)) wdata

/-- A row of the opcode map: a word `T` selects it when `T & mask = match` (30_encoding.md R51). -/
structure OpcodeRow where
  mnemonic : String
  pattern : TxnWord
  mask : TxnWord
deriving DecidableEq, Repr

/-- `T & mask = match` (30_encoding.md R51). -/
def OpcodeRow.selects (row : OpcodeRow) (t : TxnWord) : Bool := (t &&& row.mask) == row.pattern

/-- The 20 rows in the order of 30_encoding.md R51. -/
def opcodeTable : List OpcodeRow :=
  [ ⟨"RD_CTRL", 0x0000000000#37, 0x1F00000000#37⟩,
    ⟨"WR_CTRL", 0x1000000000#37, 0x1F00000001#37⟩,
    ⟨"CMD_ENCRYPT", 0x1000000001#37, 0x1F00000003#37⟩,
    ⟨"CMD_DECRYPT", 0x1000000003#37, 0x1F00000003#37⟩,
    ⟨"RD_STATUS", 0x0100000000#37, 0x1F00000000#37⟩,
    ⟨"WR_STATUS", 0x1100000000#37, 0x1F00000000#37⟩,
    ⟨"RD_ROUNDS", 0x0200000000#37, 0x1F00000000#37⟩,
    ⟨"WR_ROUNDS", 0x1200000000#37, 0x1F00000000#37⟩,
    ⟨"RD_COUNT", 0x0300000000#37, 0x1F00000000#37⟩,
    ⟨"WR_COUNT", 0x1300000000#37, 0x1F00000000#37⟩,
    ⟨"RD_KEY", 0x0400000000#37, 0x1C00000000#37⟩,
    ⟨"WR_KEY", 0x1400000000#37, 0x1C00000000#37⟩,
    ⟨"RD_DATA", 0x0800000000#37, 0x1E00000000#37⟩,
    ⟨"WR_DATA", 0x1800000000#37, 0x1E00000000#37⟩,
    ⟨"RD_SUM", 0x0A00000000#37, 0x1F00000000#37⟩,
    ⟨"WR_SUM", 0x1A00000000#37, 0x1F00000000#37⟩,
    ⟨"RD_RSVD", 0x0B00000000#37, 0x1F00000000#37⟩,
    ⟨"RD_RSVD", 0x0C00000000#37, 0x1C00000000#37⟩,
    ⟨"WR_RSVD", 0x1B00000000#37, 0x1F00000000#37⟩,
    ⟨"WR_RSVD", 0x1C00000000#37, 0x1C00000000#37⟩ ]

/-- The position in `opcodeTable` of an instruction's row. -/
def Instr.row (i : Instr) : Fin 20 :=
  match i with
  | .rdCtrl => 0
  | .wrCtrl _ => 1
  | .cmdEncrypt _ => 2
  | .cmdDecrypt _ => 3
  | .rdStatus => 4
  | .wrStatus _ => 5
  | .rdRounds => 6
  | .wrRounds _ => 7
  | .rdCount => 8
  | .wrCount _ => 9
  | .rdKey _ => 10
  | .wrKey _ _ => 11
  | .rdData _ => 12
  | .wrData _ _ => 13
  | .rdSum => 14
  | .wrSum _ => 15
  | .rdRsvd11 => 16
  | .rdRsvd12 _ => 17
  | .wrRsvd11 _ => 18
  | .wrRsvd12 _ _ => 19

/-- The transaction word whose bits are `w`, given in `nbits` bits; none where a bit above bit 36 is set, since a transaction is one
37-bit word and no other length exists (30_encoding.md R45). -/
def tableWord (nbits w : Nat) : Option TxnWord :=
  if w % 2 ^ nbits < 2 ^ 37 then some (BitVec.ofNat 37 (w % 2 ^ nbits)) else none

/-- What the decoder reads from a table word. The transaction word is presented whole (30_encoding.md R45), so no byte order applies. -/
def decodeTableWord (nbits w : Nat) : Option Instr := (tableWord nbits w).map decode

end Sys2Proof
end

