-- ==== Sys2Proof/Config.lean ====
section
/-! DEFINITION. The configuration of the hardware (00_scope.md R6), which is not state (10_state.md R13), and the values the spec
leaves free. A free value is an `opaque` constant: nothing proves what it is. -/

namespace Sys2Proof.Config

/-- DELTA, part of the datapath and not a register (40_round_transform.md R61). -/
def delta : Word := 0x9E3779B9#32

/-- The left shift of the mixing function (00_scope.md R6). -/
def shl : Nat := 4

/-- The right shift of the mixing function (00_scope.md R6). -/
def shr : Nat := 5

/-- The default round count, the reset value of ROUNDS (00_scope.md R6; 10_state.md R20). -/
def roundsDefault : Word := 32#32

/-- The key size in bytes (00_scope.md R6). -/
def keyBytes : Nat := 16

/-- The block size in bytes (00_scope.md R6). -/
def blockBytes : Nat := 8

/-- The bytes a platform's byte-addressed window covers (20_memory.md R29). -/
def windowBytes : Nat := 64

/-- Free value (log 5): the words the nine 32-bit registers hold before the first reset, "a free draw" each
(70_reset_and_hazards.md R120). -/
opaque powerUpWord : Nat → Word

/-- Free value (log 5): the seven 1-bit fields before the first reset (70_reset_and_hazards.md R120). -/
opaque powerUpBit : Nat → Bool

/-- Free value (log 9): the two words `transform` gives for a round count of 0, of the block (v0, v1), the key (k0, k1, k2, k3) and the mode.
R72 gives `transform` for r >= 1 only, and a START with ROUNDS = 0 is refused, so the machine never reads it. -/
opaque transformZero (v0 v1 k0 k1 k2 k3 : Word) (m : Mode) : Word × Word

/-- Parameter CIPHERCORE_BASE (log 6): where a platform places the window; no rule reads it (20_memory.md R31). -/
opaque windowBase : Nat

/-- Parameter PLATFORM_SUBWORD_POLICY (log 6): the transactions a platform adapter presents for an access (write or read, byte
offset, width in bytes, data) that is misaligned or not a whole word; no rule reads it (20_memory.md R35). -/
opaque subwordPolicy : Bool → BitVec 6 → Nat → Word → List TxnWord

/-- Parameter CIPHERCORE_IRQ_ROUTE (log 6): the platform input `irq` is wired to; no rule reads it (60_exceptions.md R106). -/
opaque irqRoute : Nat

end Sys2Proof.Config
end

