-- ==== Sys2Proof/Machine/State.lean ====
section
/-! DEFINITION. The state: the architectural record of 10_state.md R13, the response port of 30_encoding.md R46, and, as plain data, the
outside world that the step reads: what the host has yet to issue and which agents act next (20_memory.md R39, R40). -/

namespace Sys2Proof.Machine

/-- The key words k0 to k3, KEY0 to KEY3 (10_state.md R15). -/
structure KeyWords where
  k0 : Word
  k1 : Word
  k2 : Word
  k3 : Word
deriving DecidableEq, Repr

/-- The block words v0 and v1, DATA0 and DATA1 (10_state.md R17). -/
structure Block where
  v0 : Word
  v1 : Word
deriving DecidableEq, Repr

/-- The architectural state of one instance, exactly the record of 10_state.md R13. -/
structure Regs where
  /-- KEY[0..3] (R15). -/
  key : KeyWords
  /-- DATA[0..1] (R17). -/
  data : Block
  /-- SUM, the running sum (R18). -/
  sum : Word
  /-- COUNT, the rounds completed in the current or last operation (R19). -/
  count : Word
  /-- ROUNDS, the round count of the next or current operation (R20). -/
  rounds : Word
  /-- CTRL.MODE (R21). -/
  mode : Mode
  /-- CTRL.IE (R21). -/
  ie : Bool
  /-- STATUS.BUSY (R22). -/
  busy : Bool
  /-- STATUS.DONE (R22). -/
  done : Bool
  /-- STATUS.ERR_ROUNDS (R22). -/
  errRounds : Bool
  /-- STATUS.ERR_BUSY (R22). -/
  errBusy : Bool
  /-- STATUS.ERR_ACCESS (R22). -/
  errAccess : Bool
deriving DecidableEq, Repr

/-- The three agents (10_state.md R12). -/
inductive Agent where
  | host
  | engine
  | reset
deriving DecidableEq, Repr

/-- What the host does in its turn: one transaction, the polling loop WAIT around RD_STATUS (30_encoding.md R57), or waiting for `irq`
(70_reset_and_hazards.md R123 step 6, R129), which issues no transaction and has no assembler form (log 4). -/
inductive HostOp where
  | txn (t : TxnWord)
  | wait
  | takeIrq
deriving DecidableEq, Repr

/-- The whole state. `regs` is the block; the other three fields are the model's own and no register of the block (log 1, log 3, log 4). -/
structure State where
  /-- The architectural record (10_state.md R13). -/
  regs : Regs
  /-- RDATA of the latest host transaction, none where it returned no data (30_encoding.md R46; log 3). -/
  rdata : Option Word
  /-- What the host has yet to issue, oldest first (20_memory.md R40; log 4). -/
  program : List HostOp
  /-- The agents that take the coming steps, the next one first (10_state.md R12; 20_memory.md R39; log 1). -/
  sched : List Agent
deriving DecidableEq, Repr

/-- The ways the machine stops with a fault: none. "No behaviour of the block is fault or stuck" (93_implementation_defined.md), and the
block has no trap mechanism (60_exceptions.md R107), so the type has no constructor. -/
inductive Fault where
deriving DecidableEq, Repr

/-- The ways an instruction is refused. -/
inductive Refusal where
  /-- Raised by an arm of `exec` whose instruction has no meaning yet; safe, since the machine stops. No arm raises it in this model. -/
  | notModelled (mnemonic : String)
deriving DecidableEq, Repr

/-- The record after a reset: all zero but ROUNDS = 32 (10_state.md R28; 70_reset_and_hazards.md R118). -/
def Regs.reset : Regs where
  key := ⟨0#32, 0#32, 0#32, 0#32⟩
  data := ⟨0#32, 0#32⟩
  sum := 0#32
  count := 0#32
  rounds := Config.roundsDefault
  mode := .encrypt
  ie := false
  busy := false
  done := false
  errRounds := false
  errBusy := false
  errAccess := false

/-- The machine right after reset (10_state.md R28), with no response, no pending host operation and no scheduled agent
(log 1, log 3, log 4). -/
def State.reset : State where
  regs := Regs.reset
  rdata := none
  program := []
  sched := []

end Sys2Proof.Machine
end

