-- ==== Sys2Proof/Machine/Operands.lean ====
section
/-! DEFINITION. The operand fields inside WDATA: the command word of a CTRL write (30_encoding.md R49) and the clear mask of a STATUS
write (R50); and the encoding of MODE (00_scope.md R11). -/

namespace Sys2Proof.Machine

/-- MODE as a bit: 0 = Encrypt, 1 = Decrypt (00_scope.md R11). -/
def modeBit (m : Mode) : Bool :=
  match m with
  | .encrypt => false
  | .decrypt => true

/-- MODE from its bit (00_scope.md R11). -/
def modeOfBit (b : Bool) : Mode := if b then .decrypt else .encrypt

/-- The MODE field of a command word, bit 1 (30_encoding.md R49). -/
def cmdMode (wdata : Word) : Mode := modeOfBit (wdata.getLsbD 1)

/-- The IE field of a command word, bit 2 (30_encoding.md R49). -/
def cmdIe (wdata : Word) : Bool := wdata.getLsbD 2

/-- The clear mask's bit for DONE (30_encoding.md R50). -/
def clearsDone (wdata : Word) : Bool := wdata.getLsbD 1

/-- The clear mask's bit for ERR_ROUNDS (30_encoding.md R50). -/
def clearsErrRounds (wdata : Word) : Bool := wdata.getLsbD 2

/-- The clear mask's bit for ERR_BUSY (30_encoding.md R50). -/
def clearsErrBusy (wdata : Word) : Bool := wdata.getLsbD 3

/-- The clear mask's bit for ERR_ACCESS (30_encoding.md R50). -/
def clearsErrAccess (wdata : Word) : Bool := wdata.getLsbD 4

end Sys2Proof.Machine
end

