-- ==== Sys2Proof/Machine/Flags.lean ====
section
/-! DEFINITION. The words CTRL and STATUS as a host reads them (10_state.md R21, R22), and the interrupt line (60_exceptions.md R106). The
block has no arithmetic condition codes (10_state.md R23). -/

namespace Sys2Proof.Machine

/-- CTRL as read: `{29'b0, IE, MODE, 1'b0}` (10_state.md R21; 41_register_access.md R82). -/
def Regs.ctrlWord (r : Regs) : Word :=
  0#29 ++ BitVec.ofBool r.ie ++ BitVec.ofBool (modeBit r.mode) ++ 0#1

/-- STATUS as read: `zext_32({ERR_ACCESS, ERR_BUSY, ERR_ROUNDS, DONE, BUSY})` (41_register_access.md R83). -/
def Regs.statusWord (r : Regs) : Word :=
  0#27 ++ BitVec.ofBool r.errAccess ++ BitVec.ofBool r.errBusy ++ BitVec.ofBool r.errRounds ++ BitVec.ofBool r.done
    ++ BitVec.ofBool r.busy

/-- Whether any flag that can drive `irq` is set; BUSY is none of them (60_exceptions.md R106). -/
def Regs.anyEvent (r : Regs) : Bool := r.done || r.errRounds || r.errBusy || r.errAccess

/-- The interrupt line, a level and a function of the state (60_exceptions.md R106). -/
def Regs.irq (r : Regs) : Bool := r.ie && r.anyEvent

end Sys2Proof.Machine
end

