-- ==== Sys2Proof/Machine/Ops.lean ====
section
/-! DEFINITION. The operations the meanings share: the register window's reads and writes, reporting an event and acknowledging it (the
block's whole exception mechanism, 60_exceptions.md R103, R107, R108), the write gate (41_register_access.md R78, R79) and starting an
operation (42_commands.md R97, R98). -/

namespace Sys2Proof.Machine

/-- The four events; an event's code is its STATUS bit (60_exceptions.md R103). -/
inductive Event where
  | done
  | errRounds
  | errBusy
  | errAccess
deriving DecidableEq, Repr

/-- The code of an event (60_exceptions.md R103). -/
def Event.code (e : Event) : Nat :=
  match e with
  | .done => 1
  | .errRounds => 2
  | .errBusy => 3
  | .errAccess => 4

/-- Whether an event's flag is set (60_exceptions.md R103). -/
def Regs.flag (r : Regs) (e : Event) : Bool :=
  match e with
  | .done => r.done
  | .errRounds => r.errRounds
  | .errBusy => r.errBusy
  | .errAccess => r.errAccess

/-- Report an event: its sticky flag becomes 1 and nothing else changes, since no state is saved and no control is transferred
(60_exceptions.md R103, R107; 00_scope.md section 5, `raise`). -/
def Regs.raise (e : Event) (r : Regs) : Regs :=
  match e with
  | .done => { r with done := true }
  | .errRounds => { r with errRounds := true }
  | .errBusy => { r with errBusy := true }
  | .errAccess => { r with errAccess := true }

/-- Acknowledge events: each flag whose bit in the clear mask is 1 becomes 0 (41_register_access.md R84; 60_exceptions.md R108). -/
def Regs.acknowledge (wdata : Word) (r : Regs) : Regs :=
  { r with
    done := r.done && !clearsDone wdata
    errRounds := r.errRounds && !clearsErrRounds wdata
    errBusy := r.errBusy && !clearsErrBusy wdata
    errAccess := r.errAccess && !clearsErrAccess wdata }

/-- Key word n (10_state.md R15). -/
def KeyWords.get (k : KeyWords) (n : Fin 4) : Word :=
  match n with
  | 0 => k.k0
  | 1 => k.k1
  | 2 => k.k2
  | 3 => k.k3

/-- The key with word n replaced (41_register_access.md R89). -/
def KeyWords.set (k : KeyWords) (n : Fin 4) (v : Word) : KeyWords :=
  match n with
  | 0 => { k with k0 := v }
  | 1 => { k with k1 := v }
  | 2 => { k with k2 := v }
  | 3 => { k with k3 := v }

/-- Block word n (10_state.md R17). -/
def Block.get (b : Block) (n : Fin 2) : Word :=
  match n with
  | 0 => b.v0
  | 1 => b.v1

/-- The block with word n replaced (41_register_access.md R91). -/
def Block.set (b : Block) (n : Fin 2) (v : Word) : Block :=
  match n with
  | 0 => { b with v0 := v }
  | 1 => { b with v1 := v }

/-- The value a read returns: the whole register, 0 for a reserved index (41_register_access.md R82 to R94). -/
def Regs.read (r : Regs) (reg : Reg) : Word :=
  match reg with
  | .ctrl => r.ctrlWord
  | .status => r.statusWord
  | .rounds => r.rounds
  | .count => r.count
  | .key n => r.key.get n
  | .data n => r.data.get n
  | .sum => r.sum
  | .rsvd11 => 0#32
  | .rsvd12 _ => 0#32

/-- ROUNDS <- v (41_register_access.md R86). -/
def Regs.setRounds (v : Word) (r : Regs) : Regs := { r with rounds := v }

/-- KEY[n] <- v (41_register_access.md R89). -/
def Regs.setKey (n : Fin 4) (v : Word) (r : Regs) : Regs := { r with key := r.key.set n v }

/-- DATA[n] <- v (41_register_access.md R91). -/
def Regs.setData (n : Fin 2) (v : Word) (r : Regs) : Regs := { r with data := r.data.set n v }

/-- CTRL.MODE <- m; CTRL.IE <- ie (42_commands.md R99). -/
def Regs.setCtrl (m : Mode) (ie : Bool) (r : Regs) : Regs := { r with mode := m, ie := ie }

/-- What WriteGate finds, in its order: a write to a read-only or reserved index is ERR_ACCESS whatever BUSY is; a write to CTRL, ROUNDS,
KEY or DATA while BUSY = 1 is ERR_BUSY; none means accept (41_register_access.md R78, R79; 60_exceptions.md R104). -/
def writeGate (reg : Reg) (r : Regs) : Option Event :=
  match reg with
  | .count => some .errAccess
  | .sum => some .errAccess
  | .rsvd11 => some .errAccess
  | .rsvd12 _ => some .errAccess
  | .status => none
  | .ctrl => if r.busy then some .errBusy else none
  | .rounds => if r.busy then some .errBusy else none
  | .key _ => if r.busy then some .errBusy else none
  | .data _ => if r.busy then some .errBusy else none

/-- A write through the gate: refused with its event, or the update given (41_register_access.md R78, R79). -/
def Regs.gated (reg : Reg) (update : Regs → Regs) (r : Regs) : Regs :=
  match writeGate reg r with
  | some e => r.raise e
  | none => update r

/-- The running sum's start value: DELTA to encrypt, DELTA * ROUNDS mod 2^32 to decrypt (40_round_transform.md R62, R66). -/
def startSum (m : Mode) (rounds : Word) : Word :=
  match m with
  | .encrypt => Config.delta
  | .decrypt => Config.delta * rounds

/-- An accepted START, after MODE and IE are written: DONE <- 0, COUNT <- 0, SUM <- its start value, BUSY <- 1 (42_commands.md R97). -/
def Regs.begin (m : Mode) (r : Regs) : Regs :=
  { r with done := false, count := 0#32, sum := startSum m r.rounds, busy := true }

/-- A START the busy gate let through: MODE and IE are written, then the START is refused where ROUNDS = 0 (42_commands.md R98) and
accepted otherwise (R97). -/
def Regs.start (m : Mode) (ie : Bool) (r : Regs) : Regs :=
  if r.rounds = 0#32 then (r.setCtrl m ie).raise .errRounds else (r.setCtrl m ie).begin m

/-- A read transaction: RDATA is the register's value and no register changes (41_register_access.md R77; 30_encoding.md R46). -/
def State.reading (reg : Reg) (s : State) : State := { s with rdata := some (s.regs.read reg) }

/-- A write transaction: the gated update, and no data returned (41_register_access.md R78; 30_encoding.md R46). -/
def State.writing (reg : Reg) (update : Regs → Regs) (s : State) : State :=
  { s with regs := s.regs.gated reg update, rdata := none }

end Sys2Proof.Machine
end

