-- ==== Sys2Proof/Machine/Commands.lean ====
section
/-! DEFINITION. The meanings of the writes to CTRL (42_commands.md R99 to R101). Each passes the write gate first (R96). -/

namespace Sys2Proof.Machine

/-- WR_CTRL: set MODE and IE without starting (42_commands.md R99). -/
def execWrCtrl (wdata : Word) (s : State) : Host.Outcome State Fault Refusal :=
  .next (s.writing .ctrl (Regs.setCtrl (cmdMode wdata) (cmdIe wdata)))

/-- CMD_ENCRYPT (42_commands.md R100). -/
def execCmdEncrypt (wdata : Word) (s : State) : Host.Outcome State Fault Refusal :=
  .next (s.writing .ctrl (Regs.start .encrypt (cmdIe wdata)))

/-- CMD_DECRYPT (42_commands.md R101). -/
def execCmdDecrypt (wdata : Word) (s : State) : Host.Outcome State Fault Refusal :=
  .next (s.writing .ctrl (Regs.start .decrypt (cmdIe wdata)))

end Sys2Proof.Machine
end

