-- ==== Sys2Proof/Machine/RegisterAccess.lean ====
section
/-! DEFINITION. The meanings of the register access transactions (41_register_access.md R82 to R95). -/

namespace Sys2Proof.Machine

/-- RD_CTRL (41_register_access.md R82). -/
def execRdCtrl (s : State) : Host.Outcome State Fault Refusal := .next (s.reading .ctrl)

/-- RD_STATUS (41_register_access.md R83). -/
def execRdStatus (s : State) : Host.Outcome State Fault Refusal := .next (s.reading .status)

/-- WR_STATUS: clear flags; the gate never refuses it (41_register_access.md R84, R78). -/
def execWrStatus (wdata : Word) (s : State) : Host.Outcome State Fault Refusal :=
  .next (s.writing .status (Regs.acknowledge wdata))

/-- RD_ROUNDS (41_register_access.md R85). -/
def execRdRounds (s : State) : Host.Outcome State Fault Refusal := .next (s.reading .rounds)

/-- WR_ROUNDS (41_register_access.md R86). -/
def execWrRounds (wdata : Word) (s : State) : Host.Outcome State Fault Refusal :=
  .next (s.writing .rounds (Regs.setRounds wdata))

/-- RD_COUNT (41_register_access.md R87). -/
def execRdCount (s : State) : Host.Outcome State Fault Refusal := .next (s.reading .count)

/-- WR_COUNT: always ERR_ACCESS; WDATA is ignored (41_register_access.md R88). -/
def execWrCount (_wdata : Word) (s : State) : Host.Outcome State Fault Refusal := .next (s.writing .count id)

/-- RD_KEY (41_register_access.md R90). -/
def execRdKey (n : Fin 4) (s : State) : Host.Outcome State Fault Refusal := .next (s.reading (.key n))

/-- WR_KEY (41_register_access.md R89). -/
def execWrKey (n : Fin 4) (wdata : Word) (s : State) : Host.Outcome State Fault Refusal :=
  .next (s.writing (.key n) (Regs.setKey n wdata))

/-- RD_DATA (41_register_access.md R92). -/
def execRdData (n : Fin 2) (s : State) : Host.Outcome State Fault Refusal := .next (s.reading (.data n))

/-- WR_DATA (41_register_access.md R91). -/
def execWrData (n : Fin 2) (wdata : Word) (s : State) : Host.Outcome State Fault Refusal :=
  .next (s.writing (.data n) (Regs.setData n wdata))

/-- RD_SUM (41_register_access.md R93). -/
def execRdSum (s : State) : Host.Outcome State Fault Refusal := .next (s.reading .sum)

/-- WR_SUM: always ERR_ACCESS; WDATA is ignored (41_register_access.md R88). -/
def execWrSum (_wdata : Word) (s : State) : Host.Outcome State Fault Refusal := .next (s.writing .sum id)

/-- RD_RSVD at IDX 11 (41_register_access.md R94). -/
def execRdRsvd11 (s : State) : Host.Outcome State Fault Refusal := .next (s.reading .rsvd11)

/-- RD_RSVD at IDX 12 + n (41_register_access.md R94). -/
def execRdRsvd12 (n : Fin 4) (s : State) : Host.Outcome State Fault Refusal := .next (s.reading (.rsvd12 n))

/-- WR_RSVD at IDX 11: always ERR_ACCESS (41_register_access.md R95). -/
def execWrRsvd11 (_wdata : Word) (s : State) : Host.Outcome State Fault Refusal := .next (s.writing .rsvd11 id)

/-- WR_RSVD at IDX 12 + n: always ERR_ACCESS (41_register_access.md R95). -/
def execWrRsvd12 (n : Fin 4) (_wdata : Word) (s : State) : Host.Outcome State Fault Refusal :=
  .next (s.writing (.rsvd12 n) id)

end Sys2Proof.Machine
end

