-- ==== Sys2Proof/Machine/Dispatch.lean ====
section
/-! DEFINITION. One arm per constructor of `Instr`, each a call of that instruction's meaning. -/

namespace Sys2Proof.Machine

def exec (i : Instr) (s : State) : Host.Outcome State Fault Refusal :=
  match i with
  | .rdCtrl => Sys2Proof.Machine.execRdCtrl s
  | .wrCtrl wdata => Sys2Proof.Machine.execWrCtrl wdata s
  | .cmdEncrypt wdata => Sys2Proof.Machine.execCmdEncrypt wdata s
  | .cmdDecrypt wdata => Sys2Proof.Machine.execCmdDecrypt wdata s
  | .rdStatus => Sys2Proof.Machine.execRdStatus s
  | .wrStatus wdata => Sys2Proof.Machine.execWrStatus wdata s
  | .rdRounds => Sys2Proof.Machine.execRdRounds s
  | .wrRounds wdata => Sys2Proof.Machine.execWrRounds wdata s
  | .rdCount => Sys2Proof.Machine.execRdCount s
  | .wrCount wdata => Sys2Proof.Machine.execWrCount wdata s
  | .rdKey n => Sys2Proof.Machine.execRdKey n s
  | .wrKey n wdata => Sys2Proof.Machine.execWrKey n wdata s
  | .rdData n => Sys2Proof.Machine.execRdData n s
  | .wrData n wdata => Sys2Proof.Machine.execWrData n wdata s
  | .rdSum => Sys2Proof.Machine.execRdSum s
  | .wrSum wdata => Sys2Proof.Machine.execWrSum wdata s
  | .rdRsvd11 => Sys2Proof.Machine.execRdRsvd11 s
  | .rdRsvd12 n => Sys2Proof.Machine.execRdRsvd12 n s
  | .wrRsvd11 wdata => Sys2Proof.Machine.execWrRsvd11 wdata s
  | .wrRsvd12 n wdata => Sys2Proof.Machine.execWrRsvd12 n wdata s

end Sys2Proof.Machine
end

