-- ==== Sys2Proof/Machine/Engine.lean ====
section
/-! DEFINITION. The engine: the mixing function (40_round_transform.md R59), the two round steps ENC_ROUND and DEC_ROUND (R64, R67) with
the key pairing of R60, the choice between them (R68) and completion (R69). -/

namespace Sys2Proof.Machine

/-- The mixing function f: three wrapped sums, combined by XOR; the shifts are logical (40_round_transform.md R59). -/
def mix (x ka kb s : Word) : Word :=
  ((x <<< Config.shl) + ka) ^^^ (x + s) ^^^ ((x >>> Config.shr) + kb)

/-- One encrypt round of the block: v0 first, with KEY[0] and KEY[1], then v1 from the new v0, with KEY[2] and KEY[3]
(40_round_transform.md R60, R63, R64). -/
def encRound (b : Block) (k : KeyWords) (s : Word) : Block :=
  let v0 := b.v0 + mix b.v1 k.k0 k.k1 s
  let v1 := b.v1 + mix v0 k.k2 k.k3 s
  ⟨v0, v1⟩

/-- One decrypt round of the block: v1 first, with KEY[2] and KEY[3], then v0 from the new v1, with KEY[0] and KEY[1]
(40_round_transform.md R60, R65, R67). -/
def decRound (b : Block) (k : KeyWords) (s : Word) : Block :=
  let v1 := b.v1 - mix b.v0 k.k2 k.k3 s
  let v0 := b.v0 - mix v1 k.k0 k.k1 s
  ⟨v0, v1⟩

/-- COUNT <- COUNT + 1, and BUSY <- 0 with the event DONE where COUNT then equals ROUNDS (40_round_transform.md R64, R67, R69). -/
def Regs.countRound (r : Regs) : Regs :=
  let counted := { r with count := r.count + 1#32 }
  if counted.count = counted.rounds then { counted with busy := false }.raise .done else counted

/-- ENC_ROUND (40_round_transform.md R64). -/
def Regs.encStep (r : Regs) : Regs :=
  { r with data := encRound r.data r.key r.sum, sum := r.sum + Config.delta }.countRound

/-- DEC_ROUND (40_round_transform.md R67). -/
def Regs.decStep (r : Regs) : Regs :=
  { r with data := decRound r.data r.key r.sum, sum := r.sum - Config.delta }.countRound

/-- The engine's step: none while BUSY = 0, else the round CTRL.MODE names, whole and atomic (40_round_transform.md R68). -/
def Regs.engineStep (r : Regs) : Regs :=
  match r.busy, r.mode with
  | false, _ => r
  | true, .encrypt => r.encStep
  | true, .decrypt => r.decStep

end Sys2Proof.Machine
end

