-- ==== Sys2Proof/Machine/Agents.lean ====
section
/-! DEFINITION. What each of the three agents does in its turn (10_state.md R12; 20_memory.md R39), and whose turn it is once no agent is
scheduled (log 2). -/

namespace Sys2Proof.Machine

/-- Whether the poll of WAIT ends: bit 0 (BUSY) of the word RD_STATUS returned is 0 (30_encoding.md R57). -/
def pollEnds (rdata : Option Word) : Bool :=
  match rdata with
  | some w => !w.getLsbD 0
  | none => true

/-- After a poll, WAIT stays the host's next operation unless the poll ended it (30_encoding.md R57). -/
def afterPoll (rest : List HostOp) (s : State) : State :=
  if pollEnds s.rdata then { s with program := rest } else s

/-- Waiting for `irq` stays the host's next operation until the line is 1 (60_exceptions.md R106; 70_reset_and_hazards.md R123). -/
def afterIrq (rest : List HostOp) (s : State) : State := if s.regs.irq then { s with program := rest } else s

/-- The host's turn: its oldest pending transaction, decoded and executed (20_memory.md R40; 30_encoding.md R58), or one RD_STATUS of a WAIT
(R57), or one look at `irq`. A host with nothing to issue changes nothing (60_exceptions.md R116; log 1). -/
def hostTurn (s : State) : Host.Outcome State Fault Refusal :=
  match s.program with
  | [] => .next s
  | .txn t :: rest => exec (decode t) { s with program := rest }
  | .wait :: rest =>
    match exec .rdStatus s with
    | .next polled => .next (afterPoll rest polled)
    | .fault f => .fault f
    | .refused r => .refused r
  | .takeIrq :: rest => .next (afterIrq rest s)

/-- The engine's turn (40_round_transform.md R68). -/
def engineTurn (s : State) : Host.Outcome State Fault Refusal := .next { s with regs := s.regs.engineStep }

/-- The reset input's turn: every register to its reset value, in any state (70_reset_and_hazards.md R118). The host's pending operations,
the schedule and the response it holds are outside the block and stay (log 3, log 4). -/
def resetTurn (s : State) : Host.Outcome State Fault Refusal := .next { s with regs := Regs.reset }

/-- One agent's turn (10_state.md R12). -/
def turn (a : Agent) (s : State) : Host.Outcome State Fault Refusal :=
  match a with
  | .host => hostTurn s
  | .engine => engineTurn s
  | .reset => resetTurn s

/-- Whose turn it is once the schedule is used up: the engine's while BUSY = 1, so that every operation ends (20_memory.md R39, weak
fairness), and the host's otherwise (log 2). -/
def unscheduledAgent (s : State) : Agent := if s.regs.busy then .engine else .host

/-- The free values of the registers before the first reset (70_reset_and_hazards.md R120; log 5). -/
def Regs.powerUp : Regs where
  key := ⟨Config.powerUpWord 0, Config.powerUpWord 1, Config.powerUpWord 2, Config.powerUpWord 3⟩
  data := ⟨Config.powerUpWord 4, Config.powerUpWord 5⟩
  sum := Config.powerUpWord 6
  count := Config.powerUpWord 7
  rounds := Config.powerUpWord 8
  mode := modeOfBit (Config.powerUpBit 0)
  ie := Config.powerUpBit 1
  busy := Config.powerUpBit 2
  done := Config.powerUpBit 3
  errRounds := Config.powerUpBit 4
  errBusy := Config.powerUpBit 5
  errAccess := Config.powerUpBit 6

/-- The machine at power-up: free register values, and the platform asserts reset before the first transaction of the host's program
(70_reset_and_hazards.md R120). -/
def State.powerUp (program : List HostOp) (sched : List Agent) : State where
  regs := Regs.powerUp
  rdata := none
  program := program
  sched := .reset :: sched

end Sys2Proof.Machine
end

