-- ==== Sys2Proof/Machine/Step.lean ====
section
/-! DEFINITION. One step of the machine: the next scheduled agent takes its turn (10_state.md R12). -/

namespace Sys2Proof.Machine

/-- One step. Exactly one agent steps: the first of the schedule, or the one `unscheduledAgent` names when the schedule is used up. -/
def step (s : State) : Host.Outcome State Fault Refusal :=
  match s.sched with
  | a :: later => turn a { s with sched := later }
  | [] => turn (unscheduledAgent s) s

/-- `s` with the transaction `w` as the host's next one and the host's turn next, so that the next step runs exactly it (log 4). -/
def State.withFetchWord (s : State) (nbits w : Nat) : State :=
  match tableWord nbits w with
  | some t => { s with program := .txn t :: s.program, sched := .host :: s.sched }
  | none => s

end Sys2Proof.Machine
end

