-- ==== Sys2Proof/Machine/Packing.lean ====
section
/-! DEFINITION. The host's duties toward the block, over bytes: little-endian packing (20_memory.md R33), key material made 16 bytes long
(70_reset_and_hazards.md R124) and a block zero-filled to 8 bytes (R125). Nothing inside the block uses them (20_memory.md R32). -/

namespace Sys2Proof.Machine

/-- `word = b0 | (b1 << 8) | (b2 << 16) | (b3 << 24)` (20_memory.md R33). -/
def le32 (b0 b1 b2 b3 : Byte) : Word :=
  b0.setWidth 32 ||| (b1.setWidth 32 <<< 8) ||| (b2.setWidth 32 <<< 16) ||| (b3.setWidth 32 <<< 24)

/-- Byte j of a word, bits `[8j+7 : 8j]` (20_memory.md R33). -/
def byteOf (w : Word) (j : Nat) : Byte := w.extractLsb' (8 * j) 8

/-- A word unpacked, "the same way" (20_memory.md R33). -/
def unpackWord (w : Word) : List Byte := [byteOf w 0, byteOf w 1, byteOf w 2, byteOf w 3]

/-- Byte j of some material, 0 where the material is shorter (70_reset_and_hazards.md R124, R125). -/
def byteAt (bs : List Byte) (j : Nat) : Byte := bs.getD j 0#8

/-- The word packed from bytes `4i .. 4i+3` of some material, zero-extended (20_memory.md R33). -/
def wordAt (bs : List Byte) (i : Nat) : Word :=
  le32 (byteAt bs (4 * i)) (byteAt bs (4 * i + 1)) (byteAt bs (4 * i + 2)) (byteAt bs (4 * i + 3))

/-- The four key words of key material: its first 16 bytes, or all of it zero-extended (70_reset_and_hazards.md R124). -/
def packKey (bs : List Byte) : KeyWords := ⟨wordAt bs 0, wordAt bs 1, wordAt bs 2, wordAt bs 3⟩

/-- The two block words of up to 8 bytes of input, zero-filled (70_reset_and_hazards.md R125). -/
def packBlock (bs : List Byte) : Block := ⟨wordAt bs 0, wordAt bs 1⟩

/-- The 8 bytes of a block (70_reset_and_hazards.md R125). -/
def unpackBlock (b : Block) : List Byte := unpackWord b.v0 ++ unpackWord b.v1

/-- The 16 bytes of a key (10_state.md R16). -/
def unpackKey (k : KeyWords) : List Byte := unpackWord k.k0 ++ unpackWord k.k1 ++ unpackWord k.k2 ++ unpackWord k.k3

end Sys2Proof.Machine
end

