-- ==== Sys2Proof/Machine/Assembler.lean ====
section
/-! DEFINITION. The assembler of 30_encoding.md: its lines and what they encode, and the disassembler (R56), the pseudo-instructions and their
expansions (R57), and the reading of program text, which refuses by name and line what falls outside R56 (R58). The spec gives the forms
of a line and no lexical grammar; what this file adds (white space, quoting, letter case) is log 8. -/

namespace Sys2Proof.Machine

/-- A line of assembly that is one transaction (30_encoding.md R56). -/
inductive AsmLine where
  | rd (reg : Reg)
  | wr (reg : Reg) (imm : Word)
  | enc (ie : Bool)
  | dec (ie : Bool)
deriving DecidableEq, Repr

/-- A pseudo-instruction (30_encoding.md R57). -/
inductive Pseudo where
  | setkey (k : KeyWords)
  | setkeyb (bytes : List Byte)
  | setblk (b : Block)
  | setblkb (bytes : List Byte)
  | getblk
  | wait
  | clrst
  | nop
deriving DecidableEq, Repr

/-- Why a line of text is refused, with its line number and the text at fault (30_encoding.md R58). -/
inductive AsmError where
  /-- The mnemonic is none of R56 and R57. -/
  | mnemonic (line : Nat) (text : List Char)
  /-- The register name is none of R56. -/
  | register (line : Nat) (text : List Char)
  /-- The immediate is no number of R56, or the bytes are none of R57. -/
  | immediate (line : Nat) (text : List Char)
  /-- The operands do not have the mnemonic's form. -/
  | operands (line : Nat) (text : List Char)
deriving DecidableEq, Repr

/-! ### Lines and words -/

/-- The command word of `ENC` and `DEC`: START, MODE and IE, reserved bits 0 (30_encoding.md R49, R56). -/
def startWord (mode ie : Bool) : Word := 0#29 ++ BitVec.ofBool ie ++ BitVec.ofBool mode ++ 1#1

/-- What a line encodes (30_encoding.md R56). -/
def AsmLine.word (l : AsmLine) : TxnWord :=
  match l with
  | .rd reg => TxnWord.mk false (Reg.idx reg) 0#32
  | .wr reg imm => TxnWord.mk true (Reg.idx reg) imm
  | .enc ie => TxnWord.mk true 0#4 (startWord false ie)
  | .dec ie => TxnWord.mk true 0#4 (startWord true ie)

/-- Bits 31:3 of a command word, reserved (30_encoding.md R49). -/
def reservedBits (wdata : Word) : BitVec 29 := wdata.extractLsb' 3 29

/-- The line a disassembler prints: `ENC` and `DEC` forms where the reserved bits are 0, else the `RD` or `WR` form (30_encoding.md R56). -/
def disassemble (i : Instr) : AsmLine :=
  match i with
  | .rdCtrl => .rd .ctrl
  | .wrCtrl wdata => .wr .ctrl wdata
  | .cmdEncrypt wdata => if reservedBits wdata = 0#29 then .enc (wdata.getLsbD 2) else .wr .ctrl wdata
  | .cmdDecrypt wdata => if reservedBits wdata = 0#29 then .dec (wdata.getLsbD 2) else .wr .ctrl wdata
  | .rdStatus => .rd .status
  | .wrStatus wdata => .wr .status wdata
  | .rdRounds => .rd .rounds
  | .wrRounds wdata => .wr .rounds wdata
  | .rdCount => .rd .count
  | .wrCount wdata => .wr .count wdata
  | .rdKey n => .rd (.key n)
  | .wrKey n wdata => .wr (.key n) wdata
  | .rdData n => .rd (.data n)
  | .wrData n wdata => .wr (.data n) wdata
  | .rdSum => .rd .sum
  | .wrSum wdata => .wr .sum wdata
  | .rdRsvd11 => .rd .rsvd11
  | .rdRsvd12 n => .rd (.rsvd12 n)
  | .wrRsvd11 wdata => .wr .rsvd11 wdata
  | .wrRsvd12 n wdata => .wr (.rsvd12 n) wdata

/-! ### Pseudo-instructions -/

/-- A line as the host operation it issues. -/
def AsmLine.op (l : AsmLine) : HostOp := .txn l.word

/-- `SETKEY a, b, c, d` (30_encoding.md R57). -/
def setkeyOps (k : KeyWords) : List HostOp :=
  [(AsmLine.wr (.key 0) k.k0).op, (AsmLine.wr (.key 1) k.k1).op, (AsmLine.wr (.key 2) k.k2).op, (AsmLine.wr (.key 3) k.k3).op]

/-- `SETBLK a, b` (30_encoding.md R57). -/
def setblkOps (b : Block) : List HostOp := [(AsmLine.wr (.data 0) b.v0).op, (AsmLine.wr (.data 1) b.v1).op]

/-- The expansion of a pseudo-instruction; WAIT is a loop of the host's and stays one operation (30_encoding.md R57). -/
def Pseudo.expand (p : Pseudo) : List HostOp :=
  match p with
  | .setkey k => setkeyOps k
  | .setkeyb bytes => setkeyOps (packKey bytes)
  | .setblk b => setblkOps b
  | .setblkb bytes => setblkOps (packBlock bytes)
  | .getblk => [(AsmLine.rd (.data 0)).op, (AsmLine.rd (.data 1)).op]
  | .wait => [.wait]
  | .clrst => [(AsmLine.wr .status 0x1E#32).op]
  | .nop => [(AsmLine.rd .status).op]

/-! ### Printing -/

/-- The name of a register (30_encoding.md R56). -/
def regName (reg : Reg) : String :=
  match reg with
  | .ctrl => "CTRL"
  | .status => "STATUS"
  | .rounds => "ROUNDS"
  | .count => "COUNT"
  | .key 0 => "KEY0"
  | .key 1 => "KEY1"
  | .key 2 => "KEY2"
  | .key 3 => "KEY3"
  | .data 0 => "DATA0"
  | .data 1 => "DATA1"
  | .sum => "SUM"
  | .rsvd11 => "RSVD11"
  | .rsvd12 0 => "RSVD12"
  | .rsvd12 1 => "RSVD13"
  | .rsvd12 2 => "RSVD14"
  | .rsvd12 3 => "RSVD15"

/-- A hexadecimal digit as printed. -/
def hexDigit (d : BitVec 4) : Char := if d.toNat < 10 then Char.ofNat (48 + d.toNat) else Char.ofNat (55 + d.toNat)

/-- `0x` and 8 hexadecimal digits, the most significant first (30_encoding.md R56). -/
def hexWord (w : Word) : List Char :=
  '0' :: 'x' ::
    [hexDigit (w.extractLsb' 28 4), hexDigit (w.extractLsb' 24 4), hexDigit (w.extractLsb' 20 4), hexDigit (w.extractLsb' 16 4),
     hexDigit (w.extractLsb' 12 4), hexDigit (w.extractLsb' 8 4), hexDigit (w.extractLsb' 4 4), hexDigit (w.extractLsb' 0 4)]

/-- A line as text (30_encoding.md R56). -/
def AsmLine.text (l : AsmLine) : List Char :=
  match l with
  | .rd reg => "RD ".toList ++ (regName reg).toList
  | .wr reg imm => "WR ".toList ++ ((regName reg).toList ++ (", ".toList ++ hexWord imm))
  | .enc ie => if ie then "ENC.IE".toList else "ENC".toList
  | .dec ie => if ie then "DEC.IE".toList else "DEC".toList

/-! ### Reading -/

/-- A piece of a line: a word, a quoted string or a comma (log 8). -/
inductive Token where
  | word (cs : List Char)
  | quoted (cs : List Char)
  | comma
deriving DecidableEq, Repr

/-- Where the reader stands in a line: between words, in a word, in a quoted string; what it has read, last first. -/
inductive LexState where
  | gap
  | word (seen : List Char)
  | quoted (seen : List Char)
deriving DecidableEq, Repr

/-- The word being read, if any. -/
def lexFlush (st : LexState) : List Token :=
  match st with
  | .gap => []
  | .word seen => [.word seen.reverse]
  | .quoted _ => []

/-- The double quote. -/
def quoteChar : Char := Char.ofNat 34

/-- White space inside a line (log 8). -/
def isSpace (c : Char) : Bool := c == ' ' || c == '\t' || c == '\r'

/-- The tokens of a line; `;` starts a comment (30_encoding.md R56); none where a quoted string does not end. -/
def lex (st : LexState) (cs : List Char) : Option (List Token) :=
  match cs with
  | [] =>
    match st with
    | .quoted _ => none
    | st => some (lexFlush st)
  | c :: rest =>
    match st with
    | .quoted seen =>
      if c == quoteChar then (lex .gap rest).map (fun ts => .quoted seen.reverse :: ts) else lex (.quoted (c :: seen)) rest
    | .gap =>
      if c == ';' then some []
      else if c == quoteChar then lex (.quoted []) rest
      else if c == ',' then (lex .gap rest).map (fun ts => .comma :: ts)
      else if isSpace c then lex .gap rest
      else lex (.word [c]) rest
    | .word seen =>
      if c == ';' then some [.word seen.reverse]
      else if c == quoteChar then (lex (.quoted []) rest).map (fun ts => .word seen.reverse :: ts)
      else if c == ',' then (lex .gap rest).map (fun ts => .word seen.reverse :: .comma :: ts)
      else if isSpace c then (lex .gap rest).map (fun ts => .word seen.reverse :: ts)
      else lex (.word (c :: seen)) rest

/-- The value of a digit of the base, none for another character (log 8: both cases of a hexadecimal letter). -/
def digitValue (base : Nat) (c : Char) : Option Nat :=
  let n := c.toNat
  let v := if 48 ≤ n ∧ n ≤ 57 then n - 48 else if 65 ≤ n ∧ n ≤ 70 then n - 55 else if 97 ≤ n ∧ n ≤ 102 then n - 87 else base
  if v < base then some v else none

/-- The number a row of digits spells, after the digits already read. -/
def digitsValue (base acc : Nat) (cs : List Char) : Option Nat :=
  match cs with
  | [] => some acc
  | c :: rest =>
    match digitValue base c with
    | some v => digitsValue base (acc * base + v) rest
    | none => none

/-- An immediate: `0x` hexadecimal or decimal, in 0 to 2^32 - 1 (30_encoding.md R56). -/
def parseImm (cs : List Char) : Option Word :=
  let value :=
    match cs with
    | [] => none
    | '0' :: 'x' :: [] => none
    | '0' :: 'x' :: digits => digitsValue 16 0 digits
    | digits => digitsValue 10 0 digits
  match value with
  | some v => if v < 2 ^ 32 then some (BitVec.ofNat 32 v) else none
  | none => none

/-- The register names of 30_encoding.md R56, in index order. -/
def allRegs : List Reg :=
  [.ctrl, .status, .rounds, .count, .key 0, .key 1, .key 2, .key 3, .data 0, .data 1, .sum, .rsvd11, .rsvd12 0, .rsvd12 1, .rsvd12 2,
   .rsvd12 3]

/-- The register a name stands for (30_encoding.md R56). -/
def parseReg (cs : List Char) : Option Reg := allRegs.find? (fun reg => (regName reg).toList == cs)

/-- The bytes of a quoted string, one for each ASCII character; none for any other character (log 8). -/
def parseBytes (cs : List Char) : Option (List Byte) :=
  match cs with
  | [] => some []
  | c :: rest => if c.toNat < 128 then (parseBytes rest).map (fun bs => BitVec.ofNat 8 c.toNat :: bs) else none

/-- The operands of a line that takes registers or numbers: words with a comma between every two; none for any other form. -/
def operandWords (ts : List Token) : Option (List (List Char)) :=
  match ts with
  | [] => some []
  | [.word cs] => some [cs]
  | .word cs :: .comma :: .word ds :: rest => (operandWords (.word ds :: rest)).map (fun os => cs :: os)
  | _ => none

/-- An immediate operand, or the refusal of it. -/
def immOr (line : Nat) (cs : List Char) : Except AsmError Word :=
  match parseImm cs with
  | some v => .ok v
  | none => .error (.immediate line cs)

/-- A register operand, or the refusal of it. -/
def regOr (line : Nat) (cs : List Char) : Except AsmError Reg :=
  match parseReg cs with
  | some reg => .ok reg
  | none => .error (.register line cs)

/-- The operations of a line with its operands: `RD`, `WR` and the pseudo-instructions that take numbers, each by its number of operands
(30_encoding.md R56, R57). Where a line has several faults the spec does not say which is named: the model names the register before the
immediates, and the leftmost immediate first (log 8). -/
def parseNumeric (line : Nat) (m : List Char) (os : List (List Char)) : Except AsmError (List HostOp) :=
  match os with
  | [r] =>
    if m == "RD".toList then (regOr line r).map (fun reg => [(AsmLine.rd reg).op]) else .error (.operands line m)
  | [a, b] =>
    if m == "WR".toList then
      (regOr line a).bind (fun reg => (immOr line b).map (fun imm => [(AsmLine.wr reg imm).op]))
    else if m == "SETBLK".toList then
      (immOr line a).bind (fun v0 => (immOr line b).map (fun v1 => (Pseudo.setblk ⟨v0, v1⟩).expand))
    else .error (.operands line m)
  | [a, b, c, d] =>
    if m == "SETKEY".toList then
      (immOr line a).bind (fun k0 => (immOr line b).bind (fun k1 => (immOr line c).bind (fun k2 => (immOr line d).map (fun k3 =>
        (Pseudo.setkey ⟨k0, k1, k2, k3⟩).expand))))
    else .error (.operands line m)
  | _ => .error (.operands line m)

/-- The operations of a line that takes a quoted string (30_encoding.md R57): key material of any length, a block of at most 8 bytes. -/
def parseQuoted (line : Nat) (m cs : List Char) : Except AsmError (List HostOp) :=
  match parseBytes cs with
  | none => .error (.immediate line cs)
  | some bytes =>
    if m == "SETKEYB".toList then .ok (Pseudo.setkeyb bytes).expand
    else if bytes.length ≤ Config.blockBytes then .ok (Pseudo.setblkb bytes).expand
    else .error (.immediate line cs)

/-- The mnemonics without operands and what they issue (30_encoding.md R56, R57). -/
def plainMnemonics : List (String × List HostOp) :=
  [ ("ENC", [(AsmLine.enc false).op]), ("ENC.IE", [(AsmLine.enc true).op]),
    ("DEC", [(AsmLine.dec false).op]), ("DEC.IE", [(AsmLine.dec true).op]),
    ("GETBLK", Pseudo.getblk.expand), ("WAIT", Pseudo.wait.expand),
    ("CLRST", Pseudo.clrst.expand), ("NOP", Pseudo.nop.expand) ]

/-- The mnemonics that take registers or numbers (30_encoding.md R56, R57). -/
def numericMnemonics : List String := ["RD", "WR", "SETKEY", "SETBLK"]

/-- The mnemonics that take a quoted string (30_encoding.md R57). -/
def quotedMnemonics : List String := ["SETKEYB", "SETBLKB"]

/-- The operations of a line of a mnemonic and the tokens after it. Of several faults on one line the model names an unknown mnemonic first,
then a wrong form or number of operands, then the operands' own, in `parseNumeric` and `parseQuoted` (log 8). -/
def parseMnemonic (line : Nat) (m : List Char) (ts : List Token) : Except AsmError (List HostOp) :=
  match plainMnemonics.find? (fun e => e.1.toList == m) with
  | some e => if ts.isEmpty then .ok e.2 else .error (.operands line m)
  | none =>
    if numericMnemonics.any (fun n => n.toList == m) then
      match operandWords ts with
      | some os => parseNumeric line m os
      | none => .error (.operands line m)
    else if quotedMnemonics.any (fun n => n.toList == m) then
      match ts with
      | [.quoted cs] => parseQuoted line m cs
      | _ => .error (.operands line m)
    else .error (.mnemonic line m)

/-- The operations of one line of text; an empty line issues none (30_encoding.md R56 to R58). -/
def parseLine (line : Nat) (cs : List Char) : Except AsmError (List HostOp) :=
  match lex .gap cs with
  | none => .error (.operands line cs)
  | some [] => .ok []
  | some (.word m :: ts) => parseMnemonic line m ts
  | some _ => .error (.mnemonic line cs)

/-- Text cut into lines; `seen` is the line being read, last character first. -/
def splitLines (seen : List Char) (cs : List Char) : List (List Char) :=
  match cs with
  | [] => [seen.reverse]
  | c :: rest => if c == '\n' then seen.reverse :: splitLines [] rest else splitLines (c :: seen) rest

/-- The operations of the lines of a program, numbered from `line`; the first refused line refuses the program (30_encoding.md R58). -/
def parseLines (line : Nat) (ls : List (List Char)) : Except AsmError (List HostOp) :=
  match ls with
  | [] => .ok []
  | l :: rest => (parseLine line l).bind (fun ops => (parseLines (line + 1) rest).map (fun more => ops ++ more))

/-- A program's text as what the host issues, lines numbered from 1 (30_encoding.md R56 to R58). -/
def assemble (src : String) : Except AsmError (List HostOp) := parseLines 1 (splitLines [] src.toList)

/-- The machine with a host program to run (70_reset_and_hazards.md R139; log 4). -/
def State.load (ops : List HostOp) (s : State) : State := { s with program := ops }

end Sys2Proof.Machine
end

