-- ==== Sys2Proof/Machine/Platform.lean ====
section
/-! DEFINITION. What the spec says of the platform around the block: the byte-addressed window and its adapter (20_memory.md R29, R35) and
several instances side by side (60_exceptions.md R114). -/

namespace Sys2Proof.Machine

/-- The byte offset of a register from the window's base, 4 * IDX (20_memory.md R29; 10_state.md R14). -/
def byteOffset (reg : Reg) : BitVec 6 := (Reg.idx reg).setWidth 6 <<< 2

/-- The index a byte offset selects, `o[5:2]` (20_memory.md R29). -/
def offsetIdx (o : BitVec 6) : BitVec 4 := o.extractLsb' 2 4

/-- The platform address of a register: CIPHERCORE_BASE plus its byte offset (20_memory.md R29, R31). -/
def platformAddress (reg : Reg) : Nat := Config.windowBase + (byteOffset reg).toNat

/-- The transactions a platform adapter presents: for `o[1:0] = 0` and a whole word, the one transaction; for anything else the open
parameter decides, outside the block (20_memory.md R35). -/
def adapterAccess (we : Bool) (o : BitVec 6) (width : Nat) (wdata : Word) : List TxnWord :=
  if o.extractLsb' 0 2 = 0#2 ∧ width = 4 then [TxnWord.mk we (offsetIdx o) wdata] else Config.subwordPolicy we o width wdata

/-- One step of instance `i` of a platform: the others do not move, since instances share nothing (60_exceptions.md R114). An index
with no instance changes nothing. -/
def stepInstance (i : Nat) (p : List State) : Host.Outcome (List State) Fault Refusal :=
  match p[i]? with
  | none => .next p
  | some s =>
    match step s with
    | .next t => .next (p.set i t)
    | .fault f => .fault f
    | .refused r => .refused r

end Sys2Proof.Machine
end

