-- ==== Sys2Proof/Machine/Program.lean ====
section
/-! DEFINITION. When a host program ends and what its end state is (70_reset_and_hazards.md R139). What the host has observed is no state of
the block (10_state.md R13), so it is read off the steps of the program's run. -/

namespace Sys2Proof.Machine

/-- Whose turn the next step is (10_state.md R12). -/
def State.actsNext (s : State) : Agent :=
  match s.sched with
  | a :: _ => a
  | [] => unscheduledAgent s

/-- `irq` shows the host that BUSY = 0: the line is 1 and DONE alone drives it, since an error flag can drive it while BUSY = 1 too
(70_reset_and_hazards.md R129; 60_exceptions.md R106; log 7). -/
def Regs.irqShowsIdle (r : Regs) : Bool := r.irq && !r.busy && !(r.errRounds || r.errBusy || r.errAccess)

/-- The step from `s` to `t` is the host's and starts an operation: BUSY rises only with an accepted START (10_state.md R22). -/
def State.startsOperation (s t : State) : Bool :=
  match s.actsNext with
  | .host => !s.regs.busy && t.regs.busy
  | .engine => false
  | .reset => false

/-- In the step from `s` to `t` the host observes BUSY = 0: its RD_STATUS, by itself or in a WAIT, returns bit 0 = 0, or the `irq` it waits for
shows it (70_reset_and_hazards.md R129, R139). -/
def State.observesIdle (s t : State) : Bool :=
  match s.actsNext, s.program with
  | .host, .txn w :: _ => decide (decode w = .rdStatus) && pollEnds t.rdata
  | .host, .wait :: _ => pollEnds t.rdata
  | .host, .takeIrq :: _ => s.regs.irqShowsIdle
  | .host, [] => false
  | .engine, _ => false
  | .reset, _ => false

/-- Whether the program has started an operation since which BUSY = 0 has not been observed, after the step from `s` to `t`; `awaits` says so
before it (70_reset_and_hazards.md R139). -/
def State.awaitsAfter (awaits : Bool) (s t : State) : Bool := (awaits || s.startsOperation t) && !s.observesIdle t

/-- The program has ended: its last transaction has been applied and, if it started an operation, BUSY = 0 has been observed
(70_reset_and_hazards.md R139). -/
def State.ended (awaits : Bool) (s : State) : Bool := s.program.isEmpty && !awaits

/-- The block's state where a program ends; none where BUSY = 1 there (70_reset_and_hazards.md R139; 93_implementation_defined.md S13). -/
def State.regsAtEnd (s : State) : Option Regs := if s.regs.busy then none else some s.regs

/-- The end state of the host program of `s`, if the program ends within `n` steps: the block's registers at the first point where it has
ended, whatever steps follow (70_reset_and_hazards.md R139). `awaits` is false for a program that starts at `s`. -/
def State.endState (n : Nat) (awaits : Bool) (s : State) : Option Regs :=
  match s.ended awaits, n with
  | true, _ => s.regsAtEnd
  | false, 0 => none
  | false, n + 1 =>
    match step s with
    | .next t => State.endState n (s.awaitsAfter awaits t) t
    | .fault _ => none
    | .refused _ => none

end Sys2Proof.Machine
end

