-- ==== Sys2Proof/Machine/Transform.lean ====
section
/-! DEFINITION. The pure function `transform` as 40_round_transform.md R72 writes it: it reads nothing but its arguments, and its loop bodies are
written out from R72, not from the engine's steps. `f^[n] x` is `f` applied `n` times, R72's "repeat r times". R72 gives the function for r >= 1;
at r = 0 it is a free value (log 9). -/

namespace Sys2Proof.Machine

/-- The variables of `transform`'s loops: v0, v1 and sum (40_round_transform.md R72). -/
structure LoopVars where
  v0 : Word
  v1 : Word
  sum : Word
deriving DecidableEq, Repr

/-- The body of the encrypt loop (40_round_transform.md R72). -/
def encBody (k : KeyWords) (x : LoopVars) : LoopVars :=
  let v0 := x.v0 + mix x.v1 k.k0 k.k1 x.sum
  let v1 := x.v1 + mix v0 k.k2 k.k3 x.sum
  ⟨v0, v1, x.sum + Config.delta⟩

/-- The body of the decrypt loop (40_round_transform.md R72). -/
def decBody (k : KeyWords) (x : LoopVars) : LoopVars :=
  let v1 := x.v1 - mix x.v0 k.k2 k.k3 x.sum
  let v0 := x.v0 - mix v1 k.k0 k.k1 x.sum
  ⟨v0, v1, x.sum - Config.delta⟩

/-- The loop body of a mode (40_round_transform.md R72). -/
def loopBody (m : Mode) (k : KeyWords) : LoopVars → LoopVars :=
  match m with
  | .encrypt => encBody k
  | .decrypt => decBody k

/-- What the loop returns, `(v0, v1)` (40_round_transform.md R72). -/
def LoopVars.block (x : LoopVars) : Block := ⟨x.v0, x.v1⟩

/-- `transform(block, key, mode, rounds)`: the sum starts at DELTA to encrypt and at DELTA * rounds mod 2^32 to decrypt
(40_round_transform.md R72). The spec gives no result for 0 rounds (91_not_in_source.md N7), and the model takes a free value there
(log 9). -/
def transform (b : Block) (k : KeyWords) (m : Mode) (rounds : Nat) : Block :=
  if rounds = 0 then
    let free := Config.transformZero b.v0 b.v1 k.k0 k.k1 k.k2 k.k3 m
    ⟨free.1, free.2⟩
  else ((loopBody m k)^[rounds] ⟨b.v0, b.v1, startSum m (BitVec.ofNat 32 rounds)⟩).block

end Sys2Proof.Machine
end

