-- ==== Sys2Proof/Safety.lean ====
section
/-! DEFINITION. The terms claims use: the invariants of 10_state.md R27, an operation in progress, and a run with no reset
in it. -/

namespace Sys2Proof.Machine

/-- The invariants of every state reachable from a reset (10_state.md R27). -/
abbrev Regs.Inv (r : Regs) : Prop :=
  (r.busy = true → 1#32 ≤ r.rounds ∧ r.count < r.rounds) ∧
  (r.busy = true ∧ r.mode = .encrypt → r.sum = Config.delta * (r.count + 1#32)) ∧
  (r.busy = true ∧ r.mode = .decrypt → r.sum = Config.delta * (r.rounds - r.count)) ∧
  ¬(r.busy = true ∧ r.done = true)

/-- The block after `n` rounds of an operation on block `b` with key `k` and ROUNDS = `rounds`: `n` times the loop body of `transform`, from
the operation's own start sum (40_round_transform.md R63, R65). -/
def partialBlock (b : Block) (k : KeyWords) (m : Mode) (rounds : Word) (n : Nat) : Block :=
  ((loopBody m k)^[n] ⟨b.v0, b.v1, startSum m rounds⟩).block

/-- An operation on block `b`, key `k`, mode `m` and ROUNDS = `rounds` is in progress: BUSY = 1, its key, mode and round count are in
place, and DATA is the block after COUNT of its rounds (10_state.md R17; 41_register_access.md R81). -/
abbrev Regs.InProgress (b : Block) (k : KeyWords) (m : Mode) (rounds : Word) (r : Regs) : Prop :=
  r.busy = true ∧ r.key = k ∧ r.mode = m ∧ r.rounds = rounds ∧ r.data = partialBlock b k m rounds r.count.toNat ∧ r.Inv

/-- The operation has completed and nothing has been written since: DATA is its result, COUNT = ROUNDS, BUSY = 0, DONE = 1
(40_round_transform.md R69, R72). -/
abbrev Regs.Completed (b : Block) (k : KeyWords) (m : Mode) (rounds : Word) (r : Regs) : Prop :=
  r.busy = false ∧ r.done = true ∧ r.count = rounds ∧ r.data = transform b k m rounds.toNat

/-- The START command of a mode (42_commands.md R100, R101). -/
def startCommand (m : Mode) (wdata : Word) : Instr :=
  match m with
  | .encrypt => .cmdEncrypt wdata
  | .decrypt => .cmdDecrypt wdata

/-- The next step is the host's turn, and it issues the transaction `i` decodes from. -/
abbrev State.Issues (s : State) (i : Instr) : Prop :=
  s.actsNext = .host ∧ ∃ t rest, s.program = .txn t :: rest ∧ decode t = i

/-- The reset input is not scheduled. -/
abbrev State.NoReset (s : State) : Prop := Agent.reset ∉ s.sched

/-- The outcome of `n` steps, whoever takes them (10_state.md R12). -/
def run (n : Nat) (s : State) : Host.Outcome State Fault Refusal := Host.Core.run Sys2Proof.core n s

/-- What the engine reaches in `n` steps of its own. -/
def Regs.engineSteps (n : Nat) (r : Regs) : Regs := Regs.engineStep^[n] r

end Sys2Proof.Machine
end

