-- ==== Sys2Proof/Certificates/Slice0/Obligations.lean ====
section
/-! DEFINITION. The statements for the provers, each a proposition about the machine; OBLIGATIONS.json gives each one's rule of the spec. -/

open Sys2Proof Sys2Proof.Machine

/-! ### Encoding (30_encoding.md) -/

/-- 95_test_vectors.md section 2.4: the twenty words listed there decode to the rows they are listed with. -/
def Obligations.ReferenceWordsDecode : Prop :=
  decode 0x0000000000#37 = .rdCtrl ∧
  decode 0x00DEADBEEF#37 = .rdCtrl ∧
  decode 0x1000000000#37 = .wrCtrl 0x00000000#32 ∧
  decode 0x1000000001#37 = .cmdEncrypt 0x00000001#32 ∧
  decode 0x1000000005#37 = .cmdEncrypt 0x00000005#32 ∧
  decode 0x1000000003#37 = .cmdDecrypt 0x00000003#32 ∧
  decode 0x1000000007#37 = .cmdDecrypt 0x00000007#32 ∧
  decode 0x1000000009#37 = .cmdEncrypt 0x00000009#32 ∧
  decode 0x10FFFFFFFE#37 = .wrCtrl 0xFFFFFFFE#32 ∧
  decode 0x110000001E#37 = .wrStatus 0x0000001E#32 ∧
  decode 0x0200000000#37 = .rdRounds ∧
  decode 0x1300000000#37 = .wrCount 0x00000000#32 ∧
  decode 0x1433323130#37 = .wrKey 0 0x33323130#32 ∧
  decode 0x0700000000#37 = .rdKey 3 ∧
  decode 0x19646E6120#37 = .wrData 1 0x646E6120#32 ∧
  decode 0x0800000000#37 = .rdData 0 ∧
  decode 0x1A00000000#37 = .wrSum 0x00000000#32 ∧
  decode 0x0B00000000#37 = .rdRsvd11 ∧
  decode 0x0F00000000#37 = .rdRsvd12 3 ∧
  decode 0x1CFFFFFFFF#37 = .wrRsvd12 0 0xFFFFFFFF#32

/-- R45: the transaction word is `WE * 0x10_0000_0000 + IDX * 0x1_0000_0000 + WDATA`, its three fields stand where the rule puts them,
and every 37-bit word is the word of its own three fields. -/
def Obligations.TransactionWordHasThreeFields : Prop :=
  (∀ (we : Bool) (idx : BitVec 4) (wdata : Word),
    (TxnWord.mk we idx wdata).toNat = (if we then 0x1000000000 else 0) + idx.toNat * 0x100000000 + wdata.toNat ∧
    TxnWord.we (TxnWord.mk we idx wdata) = we ∧
    TxnWord.idx (TxnWord.mk we idx wdata) = idx ∧
    TxnWord.wdata (TxnWord.mk we idx wdata) = wdata) ∧
  ∀ t : TxnWord, TxnWord.mk (TxnWord.we t) (TxnWord.idx t) (TxnWord.wdata t) = t

/-- R51: every 37-bit word selects exactly one row of the opcode map, and it is the row of the instruction the decoder reads. -/
def Obligations.EveryWordSelectsItsOneRow : Prop :=
  ∀ t : TxnWord, opcodeTable.filter (fun row => row.selects t) = [opcodeTable.get (decode t).row]

/-- R47: a read decodes the same whatever its WDATA, and its canonical word has WDATA = 0. -/
def Obligations.ReadIgnoresWdata : Prop :=
  ∀ (idx : BitVec 4) (wdata : Word),
    decode (TxnWord.mk false idx wdata) = decode (TxnWord.mk false idx 0#32) ∧
    encode (decode (TxnWord.mk false idx wdata)) = TxnWord.mk false idx 0#32

/-- R45, R47, R51, R58: every well-formed instruction, with every operand value, is decoded from its own word. -/
def Obligations.EncodedInstructionDecodesBack : Prop :=
  ∀ i : Instr, i.wellFormed = true → decode (encode i) = i

/-- R51, R58: every word decodes to a well-formed instruction, and the encoder gives back every bit of it but the WDATA of a read. -/
def Obligations.DecodedWordEncodesBack : Prop :=
  ∀ t : TxnWord, (decode t).wellFormed = true ∧
    encode (decode t) = if TxnWord.we t then t else TxnWord.mk false (TxnWord.idx t) 0#32

/-- R56: the line a disassembler prints for a word assembles to the instruction's canonical word; a START prints as ENC or DEC exactly
when its reserved bits are 0; and ENC, ENC.IE, DEC, DEC.IE are the four command words of the rule. -/
def Obligations.DisassemblyAssemblesBack : Prop :=
  (∀ t : TxnWord, (disassemble (decode t)).word = encode (decode t)) ∧
  (∀ w : Word, w.getLsbD 0 = true →
    ((∃ ie, disassemble (decode (TxnWord.mk true 0#4 w)) = .enc ie) ↔ w.getLsbD 1 = false ∧ w < 8#32) ∧
    ((∃ ie, disassemble (decode (TxnWord.mk true 0#4 w)) = .dec ie) ↔ w.getLsbD 1 = true ∧ w < 8#32)) ∧
  (AsmLine.enc false).word = 0x1000000001#37 ∧ (AsmLine.enc true).word = 0x1000000005#37 ∧
  (AsmLine.dec false).word = 0x1000000003#37 ∧ (AsmLine.dec true).word = 0x1000000007#37

/-- R56, R58: the assembler reads every line it prints as that line's one transaction (the lexical form is the model's choice, log 8). -/
def Obligations.AssemblerReadsPrintedLine : Prop :=
  ∀ (n : Nat) (l : AsmLine), parseLine n l.text = .ok [l.op]

/-- R58: whatever the rest of the line, a mnemonic, a register name or an immediate outside R56 and R57 is refused by name and line. The
mnemonic is a word of the line; the register and immediate are operands of RD and WR. How a line is cut into words, and that the
register is named before the immediate where both are bad, are the model's choices (log 8). -/
def Obligations.AssemblerRefusesByNameAndLine : Prop :=
  (∀ (n : Nat) (m : List Char) (ts : List Token),
    (∀ e ∈ plainMnemonics, e.1.toList ≠ m) → (∀ k ∈ numericMnemonics, k.toList ≠ m) → (∀ k ∈ quotedMnemonics, k.toList ≠ m) →
    parseMnemonic n m ts = .error (.mnemonic n m)) ∧
  (∀ (n : Nat) (r : List Char), (∀ reg, (regName reg).toList ≠ r) →
    parseMnemonic n "RD".toList [.word r] = .error (.register n r) ∧
    ∀ b, parseMnemonic n "WR".toList [.word r, .comma, .word b] = .error (.register n r)) ∧
  (∀ (n : Nat) (reg : Reg) (b : List Char), parseImm b = none →
    parseMnemonic n "WR".toList [.word (regName reg).toList, .comma, .word b] = .error (.immediate n b))

/-- R57: the expansion of every pseudo-instruction, and the polling loop of WAIT, which takes one RD_STATUS a host step and ends with the
one that returns bit 0 = 0 (that a host program is a list of operations is the model's choice, log 1 and log 4). -/
def Obligations.PseudoInstructionsExpand : Prop :=
  (∀ a b c d, (Pseudo.setkey ⟨a, b, c, d⟩).expand =
    [.txn (encode (.wrKey 0 a)), .txn (encode (.wrKey 1 b)), .txn (encode (.wrKey 2 c)), .txn (encode (.wrKey 3 d))]) ∧
  (∀ bytes, (Pseudo.setkeyb bytes).expand = (Pseudo.setkey (packKey bytes)).expand) ∧
  (∀ a b, (Pseudo.setblk ⟨a, b⟩).expand = [.txn (encode (.wrData 0 a)), .txn (encode (.wrData 1 b))]) ∧
  (∀ bytes, (Pseudo.setblkb bytes).expand = (Pseudo.setblk (packBlock bytes)).expand) ∧
  Pseudo.getblk.expand = [.txn (encode (.rdData 0)), .txn (encode (.rdData 1))] ∧
  Pseudo.wait.expand = [.wait] ∧
  Pseudo.clrst.expand = [.txn (encode (.wrStatus 0x1E#32))] ∧
  Pseudo.nop.expand = [.txn (encode .rdStatus)] ∧
  ∀ s later rest, s.sched = .host :: later → s.program = .wait :: rest →
    step s = .next { s with
      rdata := some (s.regs.read .status)
      program := if (s.regs.read .status).getLsbD 0 then .wait :: rest else rest
      sched := later }

/-! ### Steps, agents and reset (10_state.md, 20_memory.md, 70_reset_and_hazards.md) -/

/-- R12, R39, R58: a host's turn issues the oldest transaction: the step is `exec` of the decoded word on the state with that operation and
that turn taken off. The same where no agent is scheduled and BUSY = 0. The word `withFetchWord` places is the one the next step runs. The
schedule and the program are the model's own fields (log 1, log 2, log 4). -/
def Obligations.HostStepRunsDecodedTransaction : Prop :=
  (∀ s t rest later, s.program = .txn t :: rest → s.sched = .host :: later →
    step s = exec (decode t) { s with program := rest, sched := later }) ∧
  (∀ s t rest, s.program = .txn t :: rest → s.sched = [] → s.regs.busy = false →
    step s = exec (decode t) { s with program := rest }) ∧
  ∀ s (t : TxnWord), step (s.withFetchWord 40 t.toNat) = exec (decode t) s

/-- R58, R70, R102, R107: no transaction and no step of any agent ever stops the machine. -/
def Obligations.MachineNeverStops : Prop :=
  (∀ i s, ∃ t, exec i s = .next t) ∧ ∀ s, ∃ t, step s = .next t

/-- R28: the values of every element after reset, and `irq`. -/
def Obligations.ResetValues : Prop :=
  State.reset.regs =
    { key := ⟨0, 0, 0, 0⟩, data := ⟨0, 0⟩, sum := 0, count := 0, rounds := 32, mode := .encrypt, ie := false, busy := false,
      done := false, errRounds := false, errBusy := false, errAccess := false } ∧
  State.reset.regs.irq = false

/-- R118: the reset agent's step sets every register to its reset value, in any state, and so `irq` to 0. -/
def Obligations.ResetStepFromAnyState : Prop :=
  ∀ s later, s.sched = .reset :: later →
    ∃ t, step s = .next t ∧
      t.regs =
        { key := ⟨0, 0, 0, 0⟩, data := ⟨0, 0⟩, sum := 0, count := 0, rounds := 32, mode := .encrypt, ie := false, busy := false,
          done := false, errRounds := false, errBusy := false, errAccess := false } ∧
      t.regs.irq = false

/-- R120: whatever the free values at power-up, the reset the platform asserts leaves the reset state (the form of the power-up state
is the model's choice, log 4 and log 5). -/
def Obligations.PowerUpThenReset : Prop :=
  ∀ program sched, step (State.powerUp program sched) = .next { State.reset with program := program, sched := sched }

/-- R27 at reset. -/
def Obligations.ResetMeetsInvariants : Prop := State.reset.regs.Inv

/-- R27: every step of every agent keeps the invariants, from every state that meets them; so every state reachable from a reset, whatever the
host issues and whoever's turn it is, meets them. -/
def Obligations.EveryStepKeepsInvariants : Prop :=
  (∀ s t, s.regs.Inv → step s = .next t → t.regs.Inv) ∧
  ∀ program sched n t, run n { State.reset with program := program, sched := sched } = .next t → t.regs.Inv

/-- R116: with BUSY = 0 and nothing for the host to issue, no step but a reset changes a register. R139: a program with nothing to issue has
ended at once, and has an end state unless BUSY = 1; a program that is one accepted START never has an end state, since nothing observes
BUSY = 0; where the START is followed by a WAIT, or by taking `irq` (R129), an end state is the completed operation, under every schedule with
no reset in it; and with no agent scheduled there is one, after a WAIT always and after taking `irq` where IE = 1 and no error flag is
set. What counts as observing, and that the engine acts when nothing is scheduled, are the model's choices (log 7, log 2). -/
def Obligations.IdleBlockKeepsItsState : Prop :=
  (∀ s, s.program = [] → s.regs.busy = false → s.actsNext ≠ .reset → step s = .next { s with sched := s.sched.tail }) ∧
  (∀ n (s : State), s.program = [] → State.endState n false s = if s.regs.busy then none else some s.regs) ∧
  (∀ n s t later m wdata, s.sched = .host :: later → s.program = [.txn t] → decode t = startCommand m wdata →
    s.regs.busy = false → s.regs.rounds ≠ 0#32 → State.endState n false s = none) ∧
  (∀ n s t later m wdata r, ∀ op ∈ [HostOp.wait, HostOp.takeIrq],
    s.sched = .host :: later → s.NoReset → s.program = [.txn t, op] → decode t = startCommand m wdata →
    s.regs.busy = false → s.regs.rounds ≠ 0#32 → State.endState n false s = some r →
    r.busy = false ∧ r.done = true ∧ r.count = s.regs.rounds ∧ r.data = transform s.regs.data s.regs.key m s.regs.rounds.toNat) ∧
  ∀ s t m wdata op, op = HostOp.wait ∨ (op = HostOp.takeIrq ∧ wdata.getLsbD 2 = true ∧ s.regs.errRounds = false ∧
      s.regs.errBusy = false ∧ s.regs.errAccess = false) →
    s.sched = [] → s.program = [.txn t, op] → decode t = startCommand m wdata →
    s.regs.busy = false → s.regs.rounds ≠ 0#32 → ∃ r, State.endState (s.regs.rounds.toNat + 2) false s = some r

/-! ### The round transform (40_round_transform.md) -/

/-- R59: the mixing function as arithmetic on naturals: three sums modulo 2^32, the shifts a multiplication by 16 and a division by 32,
combined by exclusive or; with the rule's corner cases. -/
def Obligations.MixingFunctionIsArithmetic : Prop :=
  (∀ x ka kb s : Word, (mix x ka kb s).toNat =
    ((x.toNat * 16 + ka.toNat) % 2 ^ 32) ^^^ ((x.toNat + s.toNat) % 2 ^ 32) ^^^ ((x.toNat / 32 + kb.toNat) % 2 ^ 32)) ∧
  mix 0 0 0 0 = 0x00000000#32 ∧ mix 1 0 0 0 = 0x00000011#32 ∧ mix 0x80000000#32 0 0 0 = 0x84000000#32 ∧
  mix 0xFFFFFFFF#32 0xFFFFFFFF#32 0xFFFFFFFF#32 0xFFFFFFFF#32 = 0x07FFFFEF#32

/-- R64: the engine's step while BUSY = 1 and MODE = Encrypt, every register given; the ones not named keep their values. -/
def Obligations.EncryptRoundStep : Prop :=
  ∀ s later, s.sched = .engine :: later → s.regs.busy = true → s.regs.mode = .encrypt →
    let v0 := s.regs.data.v0 + mix s.regs.data.v1 s.regs.key.k0 s.regs.key.k1 s.regs.sum
    let v1 := s.regs.data.v1 + mix v0 s.regs.key.k2 s.regs.key.k3 s.regs.sum
    ∃ t, step s = .next t ∧
      t.regs = { s.regs with
        data := ⟨v0, v1⟩
        sum := s.regs.sum + 0x9E3779B9#32
        count := s.regs.count + 1#32
        busy := decide (s.regs.count + 1#32 ≠ s.regs.rounds)
        done := s.regs.done || decide (s.regs.count + 1#32 = s.regs.rounds) }

/-- R67: the engine's step while BUSY = 1 and MODE = Decrypt, every register given; the ones not named keep their values. -/
def Obligations.DecryptRoundStep : Prop :=
  ∀ s later, s.sched = .engine :: later → s.regs.busy = true → s.regs.mode = .decrypt →
    let v1 := s.regs.data.v1 - mix s.regs.data.v0 s.regs.key.k2 s.regs.key.k3 s.regs.sum
    let v0 := s.regs.data.v0 - mix v1 s.regs.key.k0 s.regs.key.k1 s.regs.sum
    ∃ t, step s = .next t ∧
      t.regs = { s.regs with
        data := ⟨v0, v1⟩
        sum := s.regs.sum - 0x9E3779B9#32
        count := s.regs.count + 1#32
        busy := decide (s.regs.count + 1#32 ≠ s.regs.rounds)
        done := s.regs.done || decide (s.regs.count + 1#32 = s.regs.rounds) }

/-- R68: while BUSY = 0 the engine has no step: a turn the schedule gives it changes no register. That such a turn is a step is the model's
choice (log 1). -/
def Obligations.EngineIdleWhileNotBusy : Prop :=
  ∀ s later, s.sched = .engine :: later → s.regs.busy = false → step s = .next { s with sched := later }

/-- R69, R71: from a state that meets the invariants, the round that makes COUNT equal ROUNDS clears BUSY, sets DONE and leaves the error flags;
SUM is then DELTA * (ROUNDS + 1) after Encrypt and 0 after Decrypt. -/
def Obligations.CompletingRoundSumAndFlags : Prop :=
  (∀ r : Regs, r.Inv → r.busy = true → r.count + 1#32 = r.rounds →
    r.engineStep.busy = false ∧ r.engineStep.done = true ∧ r.engineStep.count = r.rounds ∧ r.engineStep.rounds = r.rounds ∧
    r.engineStep.errRounds = r.errRounds ∧ r.engineStep.errBusy = r.errBusy ∧ r.engineStep.errAccess = r.errAccess ∧
    r.engineStep.sum = match r.mode with
      | .encrypt => 0x9E3779B9#32 * (r.rounds + 1#32)
      | .decrypt => 0#32) ∧
  0x9E3779B9#32 * (32#32 + 1#32) = 0x6526B0D9#32

/-- R72: the engine step that clears BUSY leaves DATA = transform(b, k, m, r), for every interleaving of host transactions with the rounds. `s` is
any state in which the command is accepted, `u` the state it leaves; every state reached in up to `n` steps is still busy, and the next
step clears BUSY. -/
def Obligations.OperationComputesTransform : Prop :=
  ∀ (s u : State) (m : Mode) (wdata : Word),
    s.regs.busy = false → s.regs.rounds ≠ 0#32 → s.NoReset →
    exec (startCommand m wdata) s = .next u →
    ∀ n t v, (∀ j ≤ n, ∀ x, run j u = .next x → x.regs.busy = true) →
      run n u = .next t → step t = .next v → v.regs.busy = false →
      v.regs.data = transform s.regs.data s.regs.key m s.regs.rounds.toNat ∧
      v.regs.done = true ∧ v.regs.count = s.regs.rounds ∧ v.regs.key = s.regs.key ∧ v.regs.rounds = s.regs.rounds ∧ v.regs.mode = m

/-- R17, R72: an operation in progress stays in progress on the same block, key, mode and round count, or completes with its result, at every
step that is not a reset's. -/
def Obligations.OperationInProgressStaysOrCompletes : Prop :=
  ∀ b k m rounds s t, s.regs.InProgress b k m rounds → s.actsNext ≠ .reset → step s = .next t →
    t.regs.InProgress b k m rounds ∨ t.regs.Completed b k m rounds

/-- R73: the block involution for every key, block and round count, and in register terms: the engine's rounds of an encrypt operation followed
by those of a decrypt operation, KEY and ROUNDS unchanged, return DATA. -/
def Obligations.BlockInvolution : Prop :=
  (∀ b k (r : Nat), 1 ≤ r → transform (transform b k .encrypt r) k .decrypt r = b) ∧
  ∀ (r : Regs) (ie ie' : Bool), r.busy = false → r.rounds ≠ 0#32 →
    let encrypted := Regs.engineSteps r.rounds.toNat (r.start .encrypt ie)
    let decrypted := Regs.engineSteps r.rounds.toNat (encrypted.start .decrypt ie')
    encrypted.busy = false ∧ encrypted.done = true ∧ decrypted.busy = false ∧ decrypted.done = true ∧ decrypted.data = r.data

/-- R75: while an encrypt operation is in progress with COUNT = c, DATA is transform(b, k, Encrypt, c), and the input b for c = 0, for every
interleaving of host transactions with the rounds; a decrypt operation has no such property. `s` is any state in which the command is
accepted and `u` the state it leaves. -/
def Obligations.EncryptPrefixIsTransform : Prop :=
  (∀ (s u : State) (wdata : Word),
    s.regs.busy = false → s.regs.rounds ≠ 0#32 → s.NoReset →
    exec (.cmdEncrypt wdata) s = .next u →
    ∀ n t, (∀ j ≤ n, ∀ x, run j u = .next x → x.regs.busy = true) → run n u = .next t →
      t.regs.data =
        if t.regs.count = 0#32 then s.regs.data else transform s.regs.data s.regs.key .encrypt t.regs.count.toNat) ∧
  ∃ (r : Regs) (c : Nat), r.busy = false ∧ 1 ≤ c ∧ c < r.rounds.toNat ∧
    (Regs.engineSteps c (r.start .decrypt false)).data ≠ transform r.data r.key .decrypt c

/-- R137: an operation completes after exactly ROUNDS - COUNT more engine steps, whatever the host does in between: a host's turn leaves COUNT and
ROUNDS and BUSY, an engine's turn adds one to COUNT and ends the operation exactly where COUNT meets ROUNDS. -/
def Obligations.OperationTakesExactlyItsRounds : Prop :=
  (∀ s t, s.regs.Inv → s.regs.busy = true → s.actsNext = .host → step s = .next t →
    t.regs.busy = true ∧ t.regs.count = s.regs.count ∧ t.regs.rounds = s.regs.rounds) ∧
  (∀ s t, s.regs.Inv → s.regs.busy = true → s.actsNext = .engine → step s = .next t →
    t.regs.count.toNat = s.regs.count.toNat + 1 ∧ t.regs.rounds = s.regs.rounds ∧
    t.regs.busy = decide (t.regs.count ≠ t.regs.rounds)) ∧
  ∀ (r : Regs) (n : Nat), r.Inv → r.busy = true → n ≤ r.rounds.toNat - r.count.toNat →
    (Regs.engineSteps n r).busy = decide (n < r.rounds.toNat - r.count.toNat)

/-- R39, R137 and log 2: with no agent scheduled the engine goes on while BUSY = 1, so a running operation completes in ROUNDS - COUNT steps. That the
engine acts when nothing is scheduled is the model's choice (log 2). -/
def Obligations.UnscheduledOperationCompletes : Prop :=
  ∀ s, s.regs.Inv → s.regs.busy = true → s.sched = [] →
    ∃ t, run (s.regs.rounds.toNat - s.regs.count.toNat) s = .next t ∧
      t.regs.busy = false ∧ t.regs.done = true ∧ t.regs.count = s.regs.rounds ∧ t.program = s.program

/-- R138: two operations with the same KEY, ROUNDS, MODE and input DATA give the same result, whatever else the two states hold. -/
def Obligations.ResultDependsOnInputsOnly : Prop :=
  ∀ (r q : Regs) (m : Mode) (ie ie' : Bool), r.busy = false → q.busy = false → r.rounds ≠ 0#32 →
    r.key = q.key → r.rounds = q.rounds → r.data = q.data →
    (Regs.engineSteps r.rounds.toNat (r.start m ie)).data = (Regs.engineSteps q.rounds.toNat (q.start m ie')).data ∧
    (Regs.engineSteps r.rounds.toNat (r.start m ie)).busy = false

/-- R74: the block cannot detect a wrong key: two states that differ only in KEY, DATA and the last response step to states that differ only in those,
so no flag, counter or interrupt shows the key or the block. -/
def Obligations.KeyAndDataNeverReachTheFlags : Prop :=
  ∀ (s : State) (k : KeyWords) (b : Block) (x : Option Word),
    ∃ t u, step s = .next t ∧ step { s with regs := { s.regs with key := k, data := b }, rdata := x } = .next u ∧
      { u.regs with key := t.regs.key, data := t.regs.data } = t.regs ∧ u.regs.irq = t.regs.irq ∧
      u.program = t.program ∧ u.sched = t.sched

/-! ### Register access (41_register_access.md) -/

/-- R77: a read transaction returns the register's value in the state the step starts from, changes no register, no flag and not `irq`, and is
never refused, whatever BUSY is. -/
def Obligations.ReadsChangeNothing : Prop :=
  ∀ (t : TxnWord) (s : State), TxnWord.we t = false →
    ∃ u, exec (decode t) s = .next u ∧ u = { s with rdata := some (s.regs.read (Reg.ofIdx (TxnWord.idx t))) } ∧
      u.regs.irq = s.regs.irq

/-- R82: RD_CTRL. -/
def Obligations.ReadCtrlReturnsModeAndIe : Prop :=
  (∀ wdata, decode (TxnWord.mk false 0#4 wdata) = .rdCtrl) ∧
  ∀ s, ∃ w : Word, exec .rdCtrl s = .next { s with rdata := some w } ∧
    w.getLsbD 2 = s.regs.ie ∧ w.getLsbD 1 = (s.regs.mode == .decrypt) ∧ ∀ j, j ≠ 1 → j ≠ 2 → w.getLsbD j = false

/-- R83: RD_STATUS. -/
def Obligations.ReadStatusReturnsFlags : Prop :=
  (∀ wdata, decode (TxnWord.mk false 1#4 wdata) = .rdStatus) ∧
  ∀ s, ∃ w : Word, exec .rdStatus s = .next { s with rdata := some w } ∧
    w.getLsbD 0 = s.regs.busy ∧ w.getLsbD 1 = s.regs.done ∧ w.getLsbD 2 = s.regs.errRounds ∧ w.getLsbD 3 = s.regs.errBusy ∧
    w.getLsbD 4 = s.regs.errAccess ∧ ∀ j, 5 ≤ j → w.getLsbD j = false

/-- R85, R87, R90, R92, R93, R94: the other reads return the whole register, 0 for a reserved index, and change nothing. -/
def Obligations.ReadsReturnTheRegister : Prop :=
  (∀ w s, decode (TxnWord.mk false 2#4 w) = .rdRounds ∧ exec .rdRounds s = .next { s with rdata := some s.regs.rounds }) ∧
  (∀ w s, decode (TxnWord.mk false 3#4 w) = .rdCount ∧ exec .rdCount s = .next { s with rdata := some s.regs.count }) ∧
  (∀ w s, decode (TxnWord.mk false 4#4 w) = .rdKey 0 ∧ exec (.rdKey 0) s = .next { s with rdata := some s.regs.key.k0 }) ∧
  (∀ w s, decode (TxnWord.mk false 5#4 w) = .rdKey 1 ∧ exec (.rdKey 1) s = .next { s with rdata := some s.regs.key.k1 }) ∧
  (∀ w s, decode (TxnWord.mk false 6#4 w) = .rdKey 2 ∧ exec (.rdKey 2) s = .next { s with rdata := some s.regs.key.k2 }) ∧
  (∀ w s, decode (TxnWord.mk false 7#4 w) = .rdKey 3 ∧ exec (.rdKey 3) s = .next { s with rdata := some s.regs.key.k3 }) ∧
  (∀ w s, decode (TxnWord.mk false 8#4 w) = .rdData 0 ∧ exec (.rdData 0) s = .next { s with rdata := some s.regs.data.v0 }) ∧
  (∀ w s, decode (TxnWord.mk false 9#4 w) = .rdData 1 ∧ exec (.rdData 1) s = .next { s with rdata := some s.regs.data.v1 }) ∧
  (∀ w s, decode (TxnWord.mk false 10#4 w) = .rdSum ∧ exec .rdSum s = .next { s with rdata := some s.regs.sum }) ∧
  (∀ w s, decode (TxnWord.mk false 11#4 w) = .rdRsvd11 ∧ exec .rdRsvd11 s = .next { s with rdata := some 0#32 }) ∧
  ∀ (n : Fin 4) w s, decode (TxnWord.mk false (BitVec.ofNat 4 (12 + n.val)) w) = .rdRsvd12 n ∧
    exec (.rdRsvd12 n) s = .next { s with rdata := some 0#32 }

/-- R78, R96: a write to CTRL, ROUNDS, KEY or DATA while BUSY = 1 changes no register and sets ERR_BUSY, whatever its WDATA; a write to STATUS is never subject to the gate, and a
write to IDX 3 or 10 to 15 never raises ERR_BUSY. -/
def Obligations.BusyGateRefusesWrites : Prop :=
  (∀ (idx : BitVec 4) (w : Word) (s : State), idx ∈ [0#4, 2#4, 4#4, 5#4, 6#4, 7#4, 8#4, 9#4] → s.regs.busy = true →
    exec (decode (TxnWord.mk true idx w)) s = .next { s with regs := { s.regs with errBusy := true }, rdata := none }) ∧
  ∀ (idx : BitVec 4) (w : Word) (s : State), idx ∉ [0#4, 2#4, 4#4, 5#4, 6#4, 7#4, 8#4, 9#4] ∨ s.regs.busy = false →
    ∃ t, exec (decode (TxnWord.mk true idx w)) s = .next t ∧ (t.regs.errBusy = true → s.regs.errBusy = true)

/-- R79, R88, R95: a write to a read-only register or a reserved index, whatever its WDATA and whatever BUSY is, changes no register and sets ERR_ACCESS. -/
def Obligations.AccessErrorRefusesWrites : Prop :=
  (∀ w, decode (TxnWord.mk true 3#4 w) = .wrCount w) ∧ (∀ w, decode (TxnWord.mk true 10#4 w) = .wrSum w) ∧
  (∀ w, decode (TxnWord.mk true 11#4 w) = .wrRsvd11 w) ∧
  (∀ (n : Fin 4) w, decode (TxnWord.mk true (BitVec.ofNat 4 (12 + n.val)) w) = .wrRsvd12 n w) ∧
  ∀ (w : Word) (n : Fin 4) (s : State) (i : Instr), i ∈ [.wrCount w, .wrSum w, .wrRsvd11 w, .wrRsvd12 n w] →
    exec i s = .next { s with regs := { s.regs with errAccess := true }, rdata := none }

/-- R84: WR_STATUS clears exactly the flags whose bit of the mask is 1, whatever BUSY is, and changes nothing else. -/
def Obligations.WriteStatusClearsFlags : Prop :=
  (∀ w, decode (TxnWord.mk true 1#4 w) = .wrStatus w) ∧
  ∀ (w : Word) (s : State), exec (.wrStatus w) s = .next { s with
    regs := { s.regs with
      done := if w.getLsbD 1 then false else s.regs.done
      errRounds := if w.getLsbD 2 then false else s.regs.errRounds
      errBusy := if w.getLsbD 3 then false else s.regs.errBusy
      errAccess := if w.getLsbD 4 then false else s.regs.errAccess }
    rdata := none }

/-- R86: WR_ROUNDS stores every value, 0 included, unless BUSY = 1. -/
def Obligations.WriteRounds : Prop :=
  (∀ w, decode (TxnWord.mk true 2#4 w) = .wrRounds w) ∧
  ∀ (w : Word) (s : State), exec (.wrRounds w) s = .next { s with
    regs := if s.regs.busy then { s.regs with errBusy := true } else { s.regs with rounds := w }
    rdata := none }

/-- R89: WR_KEY writes key word n and leaves the other three, unless BUSY = 1. -/
def Obligations.WriteKeyWord : Prop :=
  (∀ (n : Fin 4) w, decode (TxnWord.mk true (BitVec.ofNat 4 (4 + n.val)) w) = .wrKey n w) ∧
  ∀ (n : Fin 4) (w : Word) (s : State), exec (.wrKey n w) s = .next { s with
    regs :=
      if s.regs.busy then { s.regs with errBusy := true }
      else { s.regs with
        key :=
          ⟨if n = 0 then w else s.regs.key.k0, if n = 1 then w else s.regs.key.k1, if n = 2 then w else s.regs.key.k2,
            if n = 3 then w else s.regs.key.k3⟩ }
    rdata := none }

/-- R91: WR_DATA writes block word n and leaves the other, and DONE, unless BUSY = 1. -/
def Obligations.WriteDataWord : Prop :=
  (∀ (n : Fin 2) w, decode (TxnWord.mk true (BitVec.ofNat 4 (8 + n.val)) w) = .wrData n w) ∧
  ∀ (n : Fin 2) (w : Word) (s : State), exec (.wrData n w) s = .next { s with
    regs :=
      if s.regs.busy then { s.regs with errBusy := true }
      else { s.regs with data := ⟨if n = 0 then w else s.regs.data.v0, if n = 1 then w else s.regs.data.v1⟩ }
    rdata := none }

/-- R80: a write accepted at one step is what a read at the next returns, as far as the register's fields hold it. -/
def Obligations.AcceptedWriteIsReadBack : Prop :=
  ∀ (idx : BitVec 4) (w : Word) (s : State), s.regs.busy = false → idx ∈ [0#4, 2#4, 4#4, 5#4, 6#4, 7#4, 8#4, 9#4] →
    ∃ t u v, exec (decode (TxnWord.mk true idx w)) s = .next t ∧ exec (decode (TxnWord.mk false idx 0#32)) t = .next u ∧
      u.rdata = some v ∧ v = if idx = 0#4 then w &&& 6#32 else w

/-! ### Commands (42_commands.md) -/

/-- R97: an accepted START, in one step; everything it does not name keeps its value. -/
def Obligations.AcceptedStart : Prop :=
  ∀ (w : Word) (s : State), w.getLsbD 0 = true → s.regs.busy = false → s.regs.rounds ≠ 0#32 →
    exec (decode (TxnWord.mk true 0#4 w)) s = .next { s with
      regs := { s.regs with
        mode := if w.getLsbD 1 then .decrypt else .encrypt
        ie := w.getLsbD 2
        done := false
        count := 0#32
        sum := if w.getLsbD 1 then BitVec.ofNat 32 (0x9E3779B9 * s.regs.rounds.toNat) else 0x9E3779B9#32
        busy := true }
      rdata := none }

/-- R98: a START refused because ROUNDS = 0 writes MODE and IE, sets ERR_ROUNDS and changes nothing else. -/
def Obligations.RefusedStart : Prop :=
  ∀ (w : Word) (s : State), w.getLsbD 0 = true → s.regs.busy = false → s.regs.rounds = 0#32 →
    exec (decode (TxnWord.mk true 0#4 w)) s = .next { s with
      regs := { s.regs with
        mode := if w.getLsbD 1 then .decrypt else .encrypt
        ie := w.getLsbD 2
        errRounds := true }
      rdata := none }

/-- R99: WR_CTRL. -/
def Obligations.WriteCtrl : Prop :=
  (∀ w : Word, w.getLsbD 0 = false → decode (TxnWord.mk true 0#4 w) = .wrCtrl w) ∧
  ∀ (w : Word) (s : State), exec (.wrCtrl w) s = .next { s with
    regs :=
      if s.regs.busy then { s.regs with errBusy := true }
      else { s.regs with mode := if w.getLsbD 1 then .decrypt else .encrypt, ie := w.getLsbD 2 }
    rdata := none }

/-- R100: CMD_ENCRYPT. -/
def Obligations.CommandEncrypt : Prop :=
  (∀ w : Word, w.getLsbD 0 = true → w.getLsbD 1 = false → decode (TxnWord.mk true 0#4 w) = .cmdEncrypt w) ∧
  ∀ (w : Word) (s : State), exec (.cmdEncrypt w) s = .next { s with
    regs :=
      if s.regs.busy then { s.regs with errBusy := true }
      else if s.regs.rounds = 0#32 then { s.regs with mode := .encrypt, ie := w.getLsbD 2, errRounds := true }
      else { s.regs with
        mode := .encrypt, ie := w.getLsbD 2, done := false, count := 0#32, sum := 0x9E3779B9#32, busy := true }
    rdata := none }

/-- R101: CMD_DECRYPT. -/
def Obligations.CommandDecrypt : Prop :=
  (∀ w : Word, w.getLsbD 0 = true → w.getLsbD 1 = true → decode (TxnWord.mk true 0#4 w) = .cmdDecrypt w) ∧
  ∀ (w : Word) (s : State), exec (.cmdDecrypt w) s = .next { s with
    regs :=
      if s.regs.busy then { s.regs with errBusy := true }
      else if s.regs.rounds = 0#32 then { s.regs with mode := .decrypt, ie := w.getLsbD 2, errRounds := true }
      else { s.regs with
        mode := .decrypt, ie := w.getLsbD 2, done := false, count := 0#32
        sum := BitVec.ofNat 32 (0x9E3779B9 * s.regs.rounds.toNat), busy := true }
    rdata := none }

/-! ### Events and the interrupt line (60_exceptions.md) -/

/-- R104: a transaction raises at most one error flag, the first of the rule's three checks that applies; every other error flag is what it was, but
for those a WR_STATUS clears. -/
def Obligations.AtMostOneErrorFlag : Prop :=
  ∀ (we : Bool) (idx : BitVec 4) (w : Word) (s : State),
    let raised : Option Event :=
      if we = true ∧ idx ∈ [3#4, 10#4, 11#4, 12#4, 13#4, 14#4, 15#4] then some .errAccess
      else if we = true ∧ idx ∈ [0#4, 2#4, 4#4, 5#4, 6#4, 7#4, 8#4, 9#4] ∧ s.regs.busy = true then some .errBusy
      else if we = true ∧ idx = 0#4 ∧ w.getLsbD 0 = true ∧ s.regs.busy = false ∧ s.regs.rounds = 0#32 then some .errRounds
      else none
    ∃ t, exec (decode (TxnWord.mk we idx w)) s = .next t ∧
      ∀ e ∈ [Event.errRounds, Event.errBusy, Event.errAccess],
        t.regs.flag e =
          ((s.regs.flag e && !(we && idx == 1#4 && w.getLsbD e.code)) || decide (raised = some e))

/-- R106: the interrupt line. -/
def Obligations.InterruptLine : Prop :=
  ∀ r : Regs, r.irq = true ↔
    r.ie = true ∧ (r.done = true ∨ r.errRounds = true ∨ r.errBusy = true ∨ r.errAccess = true)

/-- R108: the host acknowledges by writing 1 to a flag's STATUS bit, or by clearing IE while BUSY = 0; `irq` falls in the same step once no enabled flag
remains; an accepted START clears DONE. -/
def Obligations.AcknowledgeLowersIrq : Prop :=
  (∀ (w : Word) (s : State), (∀ e, s.regs.flag e = true → w.getLsbD e.code = true) →
    ∃ t, exec (.wrStatus w) s = .next t ∧ (∀ e, t.regs.flag e = false) ∧ t.regs.irq = false) ∧
  (∀ (w : Word) (s : State) e, w.getLsbD e.code = true → ∃ t, exec (.wrStatus w) s = .next t ∧ t.regs.flag e = false) ∧
  (∀ (w : Word) (s : State), s.regs.busy = false → w.getLsbD 2 = false →
    ∃ t, exec (.wrCtrl w) s = .next t ∧ t.regs.irq = false) ∧
  ∀ (w : Word) (s : State), s.regs.busy = false → s.regs.rounds ≠ 0#32 →
    ∀ i ∈ [Instr.cmdEncrypt w, Instr.cmdDecrypt w], ∃ t, exec i s = .next t ∧ t.regs.flag .done = false

/-- R105: a host clear of DONE that lands before the completing round has no effect on it: DONE stays set, the clears of the error flags are kept, and the
round's own writes are what they would have been without it. -/
def Obligations.ClearBeforeCompletionKeepsDone : Prop :=
  ∀ (w : Word) (s : State), s.regs.Inv → s.regs.busy = true → s.regs.count + 1#32 = s.regs.rounds →
    ∃ t, exec (.wrStatus w) s = .next t ∧
      t.regs.engineStep = { s.regs.engineStep with
        errRounds := s.regs.errRounds && !w.getLsbD 2
        errBusy := s.regs.errBusy && !w.getLsbD 3
        errAccess := s.regs.errAccess && !w.getLsbD 4 } ∧
      t.regs.engineStep.done = true ∧ t.regs.engineStep.busy = false

/-- R22, R109: a flag that is set stays set at every step, unless the step is a reset, a WR_STATUS with a 1 in its bit or, for DONE, an accepted START. -/
def Obligations.FlagsAreSticky : Prop :=
  ∀ s t e, step s = .next t → s.regs.flag e = true → t.regs.flag e = false →
    s.actsNext = .reset ∨ (∃ w : Word, s.Issues (.wrStatus w) ∧ w.getLsbD e.code = true) ∨
    (e = .done ∧ s.regs.busy = false ∧ s.regs.rounds ≠ 0#32 ∧ ∃ w, s.Issues (.cmdEncrypt w) ∨ s.Issues (.cmdDecrypt w))

/-! ### Rules about the whole machine -/

/-- R43, R105, R137, R140: while BUSY = 1 no transaction changes anything but STATUS flags: the operation in progress goes on unchanged. -/
def Obligations.HostCannotDisturbOperation : Prop :=
  ∀ (i : Instr) (s : State), s.regs.busy = true →
    ∃ t, exec i s = .next t ∧ t.program = s.program ∧ t.sched = s.sched ∧
      t.regs = { s.regs with
        done := t.regs.done, errRounds := t.regs.errRounds, errBusy := t.regs.errBusy, errAccess := t.regs.errAccess }

/-- R15: only a host write to KEY while BUSY = 0 and a reset change the key. -/
def Obligations.KeyWrittenOnlyByHostOrReset : Prop :=
  ∀ s t, step s = .next t → t.regs.key ≠ s.regs.key →
    s.actsNext = .reset ∨ (s.regs.busy = false ∧ ∃ n w, s.Issues (.wrKey n w))

/-- R18, R19: besides reset, only an accepted START and an engine round change SUM or COUNT. -/
def Obligations.SumAndCountWrittenOnlyByStartAndRound : Prop :=
  ∀ s t, step s = .next t → t.regs.sum ≠ s.regs.sum ∨ t.regs.count ≠ s.regs.count →
    s.actsNext = .reset ∨ (s.actsNext = .engine ∧ s.regs.busy = true) ∨
    (s.regs.busy = false ∧ s.regs.rounds ≠ 0#32 ∧ ∃ w, s.Issues (.cmdEncrypt w) ∨ s.Issues (.cmdDecrypt w))

/-- R22, R119, R140: only an accepted START sets BUSY; only the completing round and a reset clear it, so nothing but a reset stops an operation before its
last round. -/
def Obligations.BusyChangesOnlyByStartCompletionReset : Prop :=
  ∀ s t, step s = .next t →
    (s.regs.busy = false → t.regs.busy = true →
      s.regs.rounds ≠ 0#32 ∧ ∃ w, s.Issues (.cmdEncrypt w) ∨ s.Issues (.cmdDecrypt w)) ∧
    (s.regs.busy = true → t.regs.busy = false →
      s.actsNext = .reset ∨ (s.actsNext = .engine ∧ s.regs.count + 1#32 = s.regs.rounds))

/-! ### The host's packing and the platform (20_memory.md, 60_exceptions.md, 70_reset_and_hazards.md) -/

/-- R33: little-endian packing as a number, each byte's place, and unpacking the same way. -/
def Obligations.PackingIsLittleEndian : Prop :=
  (∀ b0 b1 b2 b3 : Byte, (le32 b0 b1 b2 b3).toNat = b0.toNat + 2 ^ 8 * b1.toNat + 2 ^ 16 * b2.toNat + 2 ^ 24 * b3.toNat ∧
    unpackWord (le32 b0 b1 b2 b3) = [b0, b1, b2, b3]) ∧
  (∀ w : Word, le32 (byteOf w 0) (byteOf w 1) (byteOf w 2) (byteOf w 3) = w) ∧
  (∀ b0 b1 b2 b3 b4 b5 b6 b7 : Byte, packBlock [b0, b1, b2, b3, b4, b5, b6, b7] = ⟨le32 b0 b1 b2 b3, le32 b4 b5 b6 b7⟩) ∧
  ∀ bs : Fin 16 → Byte, packKey (List.ofFn bs) =
    ⟨le32 (bs 0) (bs 1) (bs 2) (bs 3), le32 (bs 4) (bs 5) (bs 6) (bs 7), le32 (bs 8) (bs 9) (bs 10) (bs 11),
      le32 (bs 12) (bs 13) (bs 14) (bs 15)⟩

/-- R124, R125: key material is the first 16 bytes or all of it zero-extended to 16; a block is zero-filled to 8 bytes; unpacking gives those bytes back. -/
def Obligations.MaterialIsTruncatedOrZeroExtended : Prop :=
  (∀ bs : List Byte, unpackKey (packKey bs) = (bs ++ List.replicate 16 0#8).take 16) ∧
  ∀ bs : List Byte, bs.length ≤ 8 → unpackBlock (packBlock bs) = bs ++ List.replicate (8 - bs.length) 0#8

/-- R29: a register's byte offset is 4 * IDX, inside the 64 bytes of the window; a byte offset selects the index of its bits 5:2; the offset of a
register selects it back. R35: an aligned whole-word access is the one transaction of that index. -/
def Obligations.WindowOffsetsSelectRegisters : Prop :=
  (∀ reg, (byteOffset reg).toNat = 4 * (Reg.idx reg).toNat ∧ (byteOffset reg).toNat < 64 ∧
    Reg.ofIdx (offsetIdx (byteOffset reg)) = reg) ∧
  (∀ o : BitVec 6, (offsetIdx o).toNat = o.toNat / 4) ∧
  ∀ we reg w, adapterAccess we (byteOffset reg) 4 w = [TxnWord.mk we (Reg.idx reg) w]

/-- R114: a step of one instance moves that instance alone, as its own step does. -/
def Obligations.InstancesShareNothing : Prop :=
  ∀ (p : List State) (i : Nat) (s : State), p[i]? = some s →
    ∃ t q, step s = .next t ∧ stepInstance i p = .next q ∧ q.length = p.length ∧ q[i]? = some t ∧ ∀ j, j ≠ i → q[j]? = p[j]?
end

