-- ==== Sys2Proof/Laws/State.lean ====
section
/-! SUPPORT. One lemma per field per update of the record, and the lemmas of the two indexed registers, so that no later proof unfolds an
update. -/

namespace Sys2Proof.Machine

@[simp] theorem Event.beq_self (e : Event) : (e == e) = true := by cases e <;> rfl

/-! ### setRounds -/

@[simp] theorem Regs.setRounds_key (v : Word) (r : Regs) : (r.setRounds v).key = r.key := rfl
@[simp] theorem Regs.setRounds_data (v : Word) (r : Regs) : (r.setRounds v).data = r.data := rfl
@[simp] theorem Regs.setRounds_sum (v : Word) (r : Regs) : (r.setRounds v).sum = r.sum := rfl
@[simp] theorem Regs.setRounds_count (v : Word) (r : Regs) : (r.setRounds v).count = r.count := rfl
@[simp] theorem Regs.setRounds_rounds (v : Word) (r : Regs) : (r.setRounds v).rounds = v := rfl
@[simp] theorem Regs.setRounds_mode (v : Word) (r : Regs) : (r.setRounds v).mode = r.mode := rfl
@[simp] theorem Regs.setRounds_ie (v : Word) (r : Regs) : (r.setRounds v).ie = r.ie := rfl
@[simp] theorem Regs.setRounds_busy (v : Word) (r : Regs) : (r.setRounds v).busy = r.busy := rfl
@[simp] theorem Regs.setRounds_done (v : Word) (r : Regs) : (r.setRounds v).done = r.done := rfl
@[simp] theorem Regs.setRounds_errRounds (v : Word) (r : Regs) : (r.setRounds v).errRounds = r.errRounds := rfl
@[simp] theorem Regs.setRounds_errBusy (v : Word) (r : Regs) : (r.setRounds v).errBusy = r.errBusy := rfl
@[simp] theorem Regs.setRounds_errAccess (v : Word) (r : Regs) : (r.setRounds v).errAccess = r.errAccess := rfl

/-! ### setKey -/

@[simp] theorem Regs.setKey_key (n : Fin 4) (v : Word) (r : Regs) : (r.setKey n v).key = r.key.set n v := rfl
@[simp] theorem Regs.setKey_data (n : Fin 4) (v : Word) (r : Regs) : (r.setKey n v).data = r.data := rfl
@[simp] theorem Regs.setKey_sum (n : Fin 4) (v : Word) (r : Regs) : (r.setKey n v).sum = r.sum := rfl
@[simp] theorem Regs.setKey_count (n : Fin 4) (v : Word) (r : Regs) : (r.setKey n v).count = r.count := rfl
@[simp] theorem Regs.setKey_rounds (n : Fin 4) (v : Word) (r : Regs) : (r.setKey n v).rounds = r.rounds := rfl
@[simp] theorem Regs.setKey_mode (n : Fin 4) (v : Word) (r : Regs) : (r.setKey n v).mode = r.mode := rfl
@[simp] theorem Regs.setKey_ie (n : Fin 4) (v : Word) (r : Regs) : (r.setKey n v).ie = r.ie := rfl
@[simp] theorem Regs.setKey_busy (n : Fin 4) (v : Word) (r : Regs) : (r.setKey n v).busy = r.busy := rfl
@[simp] theorem Regs.setKey_done (n : Fin 4) (v : Word) (r : Regs) : (r.setKey n v).done = r.done := rfl
@[simp] theorem Regs.setKey_errRounds (n : Fin 4) (v : Word) (r : Regs) : (r.setKey n v).errRounds = r.errRounds := rfl
@[simp] theorem Regs.setKey_errBusy (n : Fin 4) (v : Word) (r : Regs) : (r.setKey n v).errBusy = r.errBusy := rfl
@[simp] theorem Regs.setKey_errAccess (n : Fin 4) (v : Word) (r : Regs) : (r.setKey n v).errAccess = r.errAccess := rfl

/-! ### setData -/

@[simp] theorem Regs.setData_key (n : Fin 2) (v : Word) (r : Regs) : (r.setData n v).key = r.key := rfl
@[simp] theorem Regs.setData_data (n : Fin 2) (v : Word) (r : Regs) : (r.setData n v).data = r.data.set n v := rfl
@[simp] theorem Regs.setData_sum (n : Fin 2) (v : Word) (r : Regs) : (r.setData n v).sum = r.sum := rfl
@[simp] theorem Regs.setData_count (n : Fin 2) (v : Word) (r : Regs) : (r.setData n v).count = r.count := rfl
@[simp] theorem Regs.setData_rounds (n : Fin 2) (v : Word) (r : Regs) : (r.setData n v).rounds = r.rounds := rfl
@[simp] theorem Regs.setData_mode (n : Fin 2) (v : Word) (r : Regs) : (r.setData n v).mode = r.mode := rfl
@[simp] theorem Regs.setData_ie (n : Fin 2) (v : Word) (r : Regs) : (r.setData n v).ie = r.ie := rfl
@[simp] theorem Regs.setData_busy (n : Fin 2) (v : Word) (r : Regs) : (r.setData n v).busy = r.busy := rfl
@[simp] theorem Regs.setData_done (n : Fin 2) (v : Word) (r : Regs) : (r.setData n v).done = r.done := rfl
@[simp] theorem Regs.setData_errRounds (n : Fin 2) (v : Word) (r : Regs) : (r.setData n v).errRounds = r.errRounds := rfl
@[simp] theorem Regs.setData_errBusy (n : Fin 2) (v : Word) (r : Regs) : (r.setData n v).errBusy = r.errBusy := rfl
@[simp] theorem Regs.setData_errAccess (n : Fin 2) (v : Word) (r : Regs) : (r.setData n v).errAccess = r.errAccess := rfl

/-! ### setCtrl -/

@[simp] theorem Regs.setCtrl_key (m : Mode) (ie : Bool) (r : Regs) : (r.setCtrl m ie).key = r.key := rfl
@[simp] theorem Regs.setCtrl_data (m : Mode) (ie : Bool) (r : Regs) : (r.setCtrl m ie).data = r.data := rfl
@[simp] theorem Regs.setCtrl_sum (m : Mode) (ie : Bool) (r : Regs) : (r.setCtrl m ie).sum = r.sum := rfl
@[simp] theorem Regs.setCtrl_count (m : Mode) (ie : Bool) (r : Regs) : (r.setCtrl m ie).count = r.count := rfl
@[simp] theorem Regs.setCtrl_rounds (m : Mode) (ie : Bool) (r : Regs) : (r.setCtrl m ie).rounds = r.rounds := rfl
@[simp] theorem Regs.setCtrl_mode (m : Mode) (ie : Bool) (r : Regs) : (r.setCtrl m ie).mode = m := rfl
@[simp] theorem Regs.setCtrl_ie (m : Mode) (ie : Bool) (r : Regs) : (r.setCtrl m ie).ie = ie := rfl
@[simp] theorem Regs.setCtrl_busy (m : Mode) (ie : Bool) (r : Regs) : (r.setCtrl m ie).busy = r.busy := rfl
@[simp] theorem Regs.setCtrl_done (m : Mode) (ie : Bool) (r : Regs) : (r.setCtrl m ie).done = r.done := rfl
@[simp] theorem Regs.setCtrl_errRounds (m : Mode) (ie : Bool) (r : Regs) : (r.setCtrl m ie).errRounds = r.errRounds := rfl
@[simp] theorem Regs.setCtrl_errBusy (m : Mode) (ie : Bool) (r : Regs) : (r.setCtrl m ie).errBusy = r.errBusy := rfl
@[simp] theorem Regs.setCtrl_errAccess (m : Mode) (ie : Bool) (r : Regs) : (r.setCtrl m ie).errAccess = r.errAccess := rfl

/-! ### begin -/

@[simp] theorem Regs.begin_key (m : Mode) (r : Regs) : (r.begin m).key = r.key := rfl
@[simp] theorem Regs.begin_data (m : Mode) (r : Regs) : (r.begin m).data = r.data := rfl
@[simp] theorem Regs.begin_sum (m : Mode) (r : Regs) : (r.begin m).sum = startSum m r.rounds := rfl
@[simp] theorem Regs.begin_count (m : Mode) (r : Regs) : (r.begin m).count = 0#32 := rfl
@[simp] theorem Regs.begin_rounds (m : Mode) (r : Regs) : (r.begin m).rounds = r.rounds := rfl
@[simp] theorem Regs.begin_mode (m : Mode) (r : Regs) : (r.begin m).mode = r.mode := rfl
@[simp] theorem Regs.begin_ie (m : Mode) (r : Regs) : (r.begin m).ie = r.ie := rfl
@[simp] theorem Regs.begin_busy (m : Mode) (r : Regs) : (r.begin m).busy = true := rfl
@[simp] theorem Regs.begin_done (m : Mode) (r : Regs) : (r.begin m).done = false := rfl
@[simp] theorem Regs.begin_errRounds (m : Mode) (r : Regs) : (r.begin m).errRounds = r.errRounds := rfl
@[simp] theorem Regs.begin_errBusy (m : Mode) (r : Regs) : (r.begin m).errBusy = r.errBusy := rfl
@[simp] theorem Regs.begin_errAccess (m : Mode) (r : Regs) : (r.begin m).errAccess = r.errAccess := rfl

/-! ### acknowledge -/

@[simp] theorem Regs.acknowledge_key (w : Word) (r : Regs) : (r.acknowledge w).key = r.key := rfl
@[simp] theorem Regs.acknowledge_data (w : Word) (r : Regs) : (r.acknowledge w).data = r.data := rfl
@[simp] theorem Regs.acknowledge_sum (w : Word) (r : Regs) : (r.acknowledge w).sum = r.sum := rfl
@[simp] theorem Regs.acknowledge_count (w : Word) (r : Regs) : (r.acknowledge w).count = r.count := rfl
@[simp] theorem Regs.acknowledge_rounds (w : Word) (r : Regs) : (r.acknowledge w).rounds = r.rounds := rfl
@[simp] theorem Regs.acknowledge_mode (w : Word) (r : Regs) : (r.acknowledge w).mode = r.mode := rfl
@[simp] theorem Regs.acknowledge_ie (w : Word) (r : Regs) : (r.acknowledge w).ie = r.ie := rfl
@[simp] theorem Regs.acknowledge_busy (w : Word) (r : Regs) : (r.acknowledge w).busy = r.busy := rfl
@[simp] theorem Regs.acknowledge_done (w : Word) (r : Regs) : (r.acknowledge w).done = (r.done && !clearsDone w) := rfl
@[simp] theorem Regs.acknowledge_errRounds (w : Word) (r : Regs) : (r.acknowledge w).errRounds = (r.errRounds && !clearsErrRounds w) := rfl
@[simp] theorem Regs.acknowledge_errBusy (w : Word) (r : Regs) : (r.acknowledge w).errBusy = (r.errBusy && !clearsErrBusy w) := rfl
@[simp] theorem Regs.acknowledge_errAccess (w : Word) (r : Regs) : (r.acknowledge w).errAccess = (r.errAccess && !clearsErrAccess w) := rfl

/-! ### raise -/

@[simp] theorem Regs.raise_key (e : Event) (r : Regs) : (r.raise e).key = r.key := by
  cases e <;> rfl
@[simp] theorem Regs.raise_data (e : Event) (r : Regs) : (r.raise e).data = r.data := by
  cases e <;> rfl
@[simp] theorem Regs.raise_sum (e : Event) (r : Regs) : (r.raise e).sum = r.sum := by
  cases e <;> rfl
@[simp] theorem Regs.raise_count (e : Event) (r : Regs) : (r.raise e).count = r.count := by
  cases e <;> rfl
@[simp] theorem Regs.raise_rounds (e : Event) (r : Regs) : (r.raise e).rounds = r.rounds := by
  cases e <;> rfl
@[simp] theorem Regs.raise_mode (e : Event) (r : Regs) : (r.raise e).mode = r.mode := by
  cases e <;> rfl
@[simp] theorem Regs.raise_ie (e : Event) (r : Regs) : (r.raise e).ie = r.ie := by
  cases e <;> rfl
@[simp] theorem Regs.raise_busy (e : Event) (r : Regs) : (r.raise e).busy = r.busy := by
  cases e <;> rfl
@[simp] theorem Regs.raise_done (e : Event) (r : Regs) : (r.raise e).done = (r.done || e == .done) := by
  cases e <;> simp [Regs.raise]
@[simp] theorem Regs.raise_errRounds (e : Event) (r : Regs) : (r.raise e).errRounds = (r.errRounds || e == .errRounds) := by
  cases e <;> simp [Regs.raise]
@[simp] theorem Regs.raise_errBusy (e : Event) (r : Regs) : (r.raise e).errBusy = (r.errBusy || e == .errBusy) := by
  cases e <;> simp [Regs.raise]
@[simp] theorem Regs.raise_errAccess (e : Event) (r : Regs) : (r.raise e).errAccess = (r.errAccess || e == .errAccess) := by
  cases e <;> simp [Regs.raise]

/-! ### transactions -/

@[simp] theorem State.reading_regs (reg : Reg) (s : State) : (s.reading reg).regs = s.regs := rfl
@[simp] theorem State.reading_rdata (reg : Reg) (s : State) : (s.reading reg).rdata = some (s.regs.read reg) := rfl
@[simp] theorem State.reading_program (reg : Reg) (s : State) : (s.reading reg).program = s.program := rfl
@[simp] theorem State.reading_sched (reg : Reg) (s : State) : (s.reading reg).sched = s.sched := rfl
@[simp] theorem State.writing_regs (reg : Reg) (f : Regs → Regs) (s : State) :
    (s.writing reg f).regs = s.regs.gated reg f := rfl
@[simp] theorem State.writing_rdata (reg : Reg) (f : Regs → Regs) (s : State) : (s.writing reg f).rdata = none := rfl
@[simp] theorem State.writing_program (reg : Reg) (f : Regs → Regs) (s : State) :
    (s.writing reg f).program = s.program := rfl
@[simp] theorem State.writing_sched (reg : Reg) (f : Regs → Regs) (s : State) : (s.writing reg f).sched = s.sched := rfl

/-! ### the indexed registers -/

/-- A key word read after a key word is written (41_register_access.md R89, R90). -/
theorem KeyWords.get_set (k : KeyWords) (m n : Fin 4) (v : Word) :
    (k.set n v).get m = if m = n then v else k.get m := by
  revert m n; intro m n
  match m, n with
  | 0, 0 | 0, 1 | 0, 2 | 0, 3 | 1, 0 | 1, 1 | 1, 2 | 1, 3 | 2, 0 | 2, 1 | 2, 2 | 2, 3 | 3, 0 | 3, 1 | 3, 2 | 3, 3 => rfl

/-- A block word read after a block word is written (41_register_access.md R91, R92). -/
theorem Block.get_set (b : Block) (m n : Fin 2) (v : Word) :
    (b.set n v).get m = if m = n then v else b.get m := by
  match m, n with
  | 0, 0 | 0, 1 | 1, 0 | 1, 1 => rfl

end Sys2Proof.Machine
end

