-- ==== Sys2Proof/Laws/Engine.lean ====
section
/-! SUPPORT. What an engine step can do, and that a decrypt round undoes an encrypt round at the same sum and key. -/

namespace Sys2Proof.Machine

/-- The round an operation of mode `m` applies to the block (40_round_transform.md R68). -/
def roundOf (m : Mode) : Block → KeyWords → Word → Block :=
  match m with
  | .encrypt => encRound
  | .decrypt => decRound

/-- The running sum after a round (40_round_transform.md R64, R67). -/
def nextSum (m : Mode) (s : Word) : Word :=
  match m with
  | .encrypt => s + Config.delta
  | .decrypt => s - Config.delta

/-- An engine step while BUSY = 0 changes nothing (40_round_transform.md R68). -/
theorem Regs.engineStep_idle {r : Regs} (h : r.busy = false) : r.engineStep = r := by
  simp [Regs.engineStep, h]

/-- Everything an engine step does while BUSY = 1 (40_round_transform.md R64, R67, R69). -/
theorem Regs.engineStep_busy {r : Regs} (h : r.busy = true) :
    r.engineStep = { r with
      data := roundOf r.mode r.data r.key r.sum
      sum := nextSum r.mode r.sum
      count := r.count + 1#32
      busy := decide (r.count + 1#32 ≠ r.rounds)
      done := r.done || decide (r.count + 1#32 = r.rounds) } := by
  cases hm : r.mode <;>
    by_cases hc : r.count + 1#32 = r.rounds <;>
      simp [Regs.engineStep, h, hm, Regs.encStep, Regs.decStep, Regs.countRound, hc, Regs.raise, roundOf, nextSum]

/-- An engine step leaves every register a round does not write (40_round_transform.md R64, R67). -/
theorem Regs.engineStep_frame (r : Regs) :
    r.engineStep.key = r.key ∧ r.engineStep.rounds = r.rounds ∧ r.engineStep.mode = r.mode ∧ r.engineStep.ie = r.ie ∧
    r.engineStep.errRounds = r.errRounds ∧ r.engineStep.errBusy = r.errBusy ∧ r.engineStep.errAccess = r.errAccess := by
  cases h : r.busy
  · simp [Regs.engineStep_idle h]
  · simp [Regs.engineStep_busy h]

/-- A decrypt round undoes an encrypt round at the same key and sum (40_round_transform.md R65). -/
theorem decRound_encRound (b : Block) (k : KeyWords) (s : Word) : decRound (encRound b k s) k s = b := by
  simp only [decRound, encRound, BitVec.add_sub_cancel]

/-- `n + 1` times a word is one more than `n` times it. -/
theorem mul_ofNat_succ (d : Word) (n : Nat) : d * BitVec.ofNat 32 (n + 1) = d * BitVec.ofNat 32 n + d := by
  rw [BitVec.ofNat_add, BitVec.mul_add, BitVec.mul_one]

/-- The loop body of `transform` is the engine's round with its sum update (40_round_transform.md R64, R67, R72). -/
theorem loopBody_eq (m : Mode) (k : KeyWords) (x : LoopVars) :
    loopBody m k x =
      ⟨(roundOf m x.block k x.sum).v0, (roundOf m x.block k x.sum).v1, nextSum m x.sum⟩ := by
  cases m
  · rw [loopBody, encBody, roundOf, encRound, nextSum, LoopVars.block]
  · rw [loopBody, decBody, roundOf, decRound, nextSum, LoopVars.block]

/-- `transform` for a round count R72 gives it for (40_round_transform.md R72). -/
theorem transform_of_pos {n : Nat} (h : 1 ≤ n) (b : Block) (k : KeyWords) (m : Mode) :
    transform b k m n = ((loopBody m k)^[n] ⟨b.v0, b.v1, startSum m (BitVec.ofNat 32 n)⟩).block := by
  unfold transform
  rw [if_neg (by omega)]

end Sys2Proof.Machine
end

