-- ==== Sys2Proof/Laws/Decode.lean ====
section
/-! SUPPORT. The fields of a transaction word built from its fields, and the register at a register's index. -/

namespace Sys2Proof

/-- Each bit of a word built from its fields (30_encoding.md R45). -/
theorem TxnWord.getLsbD_mk (we : Bool) (idx : BitVec 4) (wdata : Word) (j : Nat) :
    BitVec.getLsbD (TxnWord.mk we idx wdata) j =
      if j < 32 then wdata.getLsbD j else if j - 32 < 4 then idx.getLsbD (j - 32) else (BitVec.ofBool we).getLsbD (j - 32 - 4) := by
  refine (BitVec.getLsbD_append (x := BitVec.ofBool we ++ idx) (y := wdata) (i := j)).trans ?_
  rw [BitVec.getLsbD_append]

@[simp] theorem TxnWord.we_mk (we : Bool) (idx : BitVec 4) (wdata : Word) : TxnWord.we (TxnWord.mk we idx wdata) = we := by
  unfold TxnWord.we; rw [TxnWord.getLsbD_mk]; cases we <;> rfl

@[simp] theorem TxnWord.idx_mk (we : Bool) (idx : BitVec 4) (wdata : Word) : TxnWord.idx (TxnWord.mk we idx wdata) = idx := by
  apply BitVec.eq_of_getLsbD_eq
  intro j hj
  unfold TxnWord.idx
  rw [BitVec.getLsbD_extractLsb', TxnWord.getLsbD_mk]
  simp [hj, show ¬ 32 + j < 32 by omega]

@[simp] theorem TxnWord.wdata_mk (we : Bool) (idx : BitVec 4) (wdata : Word) :
    TxnWord.wdata (TxnWord.mk we idx wdata) = wdata := by
  apply BitVec.eq_of_getLsbD_eq
  intro j hj
  unfold TxnWord.wdata
  rw [BitVec.getLsbD_extractLsb', TxnWord.getLsbD_mk]
  simp [hj]

/-- A word is the word of its fields (30_encoding.md R45). -/
theorem TxnWord.mk_fields (t : TxnWord) : TxnWord.mk (TxnWord.we t) (TxnWord.idx t) (TxnWord.wdata t) = t := by
  apply BitVec.eq_of_getLsbD_eq
  intro j hj
  rw [TxnWord.getLsbD_mk]
  simp only [TxnWord.we, TxnWord.idx, TxnWord.wdata, BitVec.getLsbD_extractLsb', BitVec.getLsbD_ofBool]
  by_cases h1 : j < 32
  · simp [h1]
  · by_cases h2 : j - 32 < 4
    · simp [h1, h2, show 32 + (j - 32) = j by omega]
    · have : j = 36 := by omega
      subst this; simp

/-- The register at a register's index is that register (10_state.md R14). -/
@[simp] theorem Reg.ofIdx_idx (r : Reg) : Reg.ofIdx (Reg.idx r) = r := by
  cases r with
  | key n => revert n; decide
  | data n => revert n; decide
  | rsvd12 n => revert n; decide
  | _ => rfl

/-- Every index is the index of its register: no two registers share one and none is left out (10_state.md R14). -/
@[simp] theorem Reg.idx_ofIdx (i : BitVec 4) : Reg.idx (Reg.ofIdx i) = i := by
  revert i; decide

/-- What the decoder reads from a word given by its fields (30_encoding.md R51). -/
theorem decode_mk (we : Bool) (idx : BitVec 4) (wdata : Word) :
    decode (TxnWord.mk we idx wdata) =
      match we with
      | false => (Reg.ofIdx idx).readInstr
      | true => (Reg.ofIdx idx).writeInstr wdata := by
  cases we <;> simp [decode]

/-- The row of a CTRL write (30_encoding.md R51). -/
theorem ctrlWriteInstr_cases (wdata : Word) :
    (wdata.getLsbD 0 = false ∧ ctrlWriteInstr wdata = .wrCtrl wdata) ∨
    (wdata.getLsbD 0 = true ∧ wdata.getLsbD 1 = false ∧ ctrlWriteInstr wdata = .cmdEncrypt wdata) ∨
    (wdata.getLsbD 0 = true ∧ wdata.getLsbD 1 = true ∧ ctrlWriteInstr wdata = .cmdDecrypt wdata) := by
  unfold ctrlWriteInstr
  cases wdata.getLsbD 0 <;> cases wdata.getLsbD 1 <;> simp

/-- Every instruction the decoder reads is a register's read row or its write row (30_encoding.md R51). -/
theorem decode_cases (t : TxnWord) :
    (TxnWord.we t = false ∧ decode t = (Reg.ofIdx (TxnWord.idx t)).readInstr) ∨
    (TxnWord.we t = true ∧ decode t = (Reg.ofIdx (TxnWord.idx t)).writeInstr (TxnWord.wdata t)) := by
  unfold decode
  cases h : TxnWord.we t <;> simp

end Sys2Proof
end

