-- ==== Sys2Proof/Laws/Ops.lean ====
section
/-! SUPPORT. One lemma per shared operation that says everything it can do: the write gate, a gated write, a START, and what `exec` answers. -/

namespace Sys2Proof.Machine

/-- The registers whose writes the busy gate can refuse: CTRL, ROUNDS, KEY and DATA (41_register_access.md R78). -/
def gatedByBusy (reg : Reg) : Bool :=
  match reg with
  | .ctrl | .rounds | .key _ | .data _ => true
  | .status | .count | .sum | .rsvd11 | .rsvd12 _ => false

/-- The registers whose writes are always refused: read-only and reserved (41_register_access.md R79). -/
def neverWritten (reg : Reg) : Bool :=
  match reg with
  | .count | .sum | .rsvd11 | .rsvd12 _ => true
  | .ctrl | .rounds | .key _ | .data _ | .status => false

/-- What WriteGate finds (41_register_access.md R78, R79). -/
theorem writeGate_spec (reg : Reg) (r : Regs) :
    writeGate reg r =
      if neverWritten reg then some .errAccess else if gatedByBusy reg && r.busy then some .errBusy else none := by
  cases reg <;> cases h : r.busy <;> simp [writeGate, neverWritten, gatedByBusy, h]

/-- What a gated write leaves: the refusal's flag, or the update (41_register_access.md R78, R79). -/
theorem Regs.gated_spec (reg : Reg) (f : Regs → Regs) (r : Regs) :
    r.gated reg f =
      if neverWritten reg then r.raise .errAccess else if gatedByBusy reg && r.busy then r.raise .errBusy else f r := by
  unfold Regs.gated
  rw [writeGate_spec]
  split_ifs <;> rfl

/-- While BUSY = 1 a gated write of any register but STATUS is a refusal (41_register_access.md R78, R79). -/
theorem Regs.gated_busy {reg : Reg} {r : Regs} (f : Regs → Regs) (hb : r.busy = true) (hs : reg ≠ .status) :
    ∃ e, e ≠ .done ∧ r.gated reg f = r.raise e := by
  rw [Regs.gated_spec]
  cases reg <;> simp_all [neverWritten, gatedByBusy] <;>
    first
    | exact ⟨.errAccess, by decide, rfl⟩
    | exact ⟨.errBusy, by decide, rfl⟩

/-- Each bit of CTRL as read (41_register_access.md R82). -/
theorem Regs.ctrlWord_bit (r : Regs) (j : Nat) :
    r.ctrlWord.getLsbD j = if j = 1 then modeBit r.mode else if j = 2 then r.ie else false := by
  have h : r.ctrlWord.getLsbD j =
      (0#29 ++ BitVec.ofBool r.ie ++ BitVec.ofBool (modeBit r.mode) ++ 0#1 : BitVec (29 + 1 + 1 + 1)).getLsbD j := rfl
  rw [h, BitVec.getLsbD_append, BitVec.getLsbD_append, BitVec.getLsbD_append]
  rcases j with _ | _ | _ | j <;> simp

/-- Each bit of STATUS as read (41_register_access.md R83). -/
theorem Regs.statusWord_bit (r : Regs) (j : Nat) :
    r.statusWord.getLsbD j =
      match j with
      | 0 => r.busy
      | 1 => r.done
      | 2 => r.errRounds
      | 3 => r.errBusy
      | 4 => r.errAccess
      | _ => false := by
  have h : r.statusWord.getLsbD j =
      (0#27 ++ BitVec.ofBool r.errAccess ++ BitVec.ofBool r.errBusy ++ BitVec.ofBool r.errRounds ++ BitVec.ofBool r.done
        ++ BitVec.ofBool r.busy : BitVec (27 + 1 + 1 + 1 + 1 + 1)).getLsbD j := rfl
  rw [h]
  iterate 5 rw [BitVec.getLsbD_append]
  rcases j with _ | _ | _ | _ | _ | j <;> simp

/-- A flag after an acknowledgement (41_register_access.md R84). -/
theorem Regs.acknowledge_flag (w : Word) (r : Regs) (e : Event) :
    (r.acknowledge w).flag e = (r.flag e && !w.getLsbD e.code) := by
  cases e <;> rfl

/-- A flag after an event (60_exceptions.md R103). -/
theorem Regs.raise_flag (r : Regs) (e e' : Event) : (r.raise e').flag e = (r.flag e || decide (e' = e)) := by
  cases e <;> cases e' <;> simp [Regs.flag, Regs.raise]

/-- A gated write is the update, let through, or an error event (41_register_access.md R78, R79). -/
theorem Regs.gated_cases (reg : Reg) (f : Regs → Regs) (r : Regs) :
    (r.gated reg f = f r ∧ (gatedByBusy reg = true → r.busy = false) ∧ neverWritten reg = false) ∨
    (∃ e, e ≠ .done ∧ r.gated reg f = r.raise e) := by
  rw [Regs.gated_spec]
  split_ifs with h1 h2
  · exact .inr ⟨_, by decide, rfl⟩
  · exact .inr ⟨_, by decide, rfl⟩
  · refine .inl ⟨rfl, fun h => ?_, by simpa using h1⟩
    simpa [h] using h2

/-- A gated write of CTRL, ROUNDS, KEY or DATA (41_register_access.md R78). -/
theorem Regs.gated_of_gatedByBusy {reg : Reg} (h : gatedByBusy reg = true) (f : Regs → Regs) (r : Regs) :
    r.gated reg f = if r.busy then { r with errBusy := true } else f r := by
  have hn : neverWritten reg = false := by cases reg <;> simp_all [gatedByBusy, neverWritten]
  rw [Regs.gated_spec, hn, h]
  rfl

/-- A START leaves MODE and IE written, and is refused where ROUNDS = 0, accepted otherwise (42_commands.md R97, R98). -/
theorem Regs.start_cases (m : Mode) (ie : Bool) (r : Regs) :
    (r.rounds = 0#32 ∧ r.start m ie = (r.setCtrl m ie).raise .errRounds) ∨
    (r.rounds ≠ 0#32 ∧ r.start m ie = (r.setCtrl m ie).begin m) := by
  unfold Regs.start
  split
  · exact .inl ⟨‹_›, rfl⟩
  · exact .inr ⟨‹_›, rfl⟩

/-- The accepted START (42_commands.md R97). -/
theorem Regs.start_accepted {m : Mode} {ie : Bool} {r : Regs} (h : r.rounds ≠ 0#32) :
    r.start m ie = (r.setCtrl m ie).begin m := by simp [Regs.start, h]

/-- A read row answers the state with RDATA set (41_register_access.md R77). -/
theorem exec_readInstr (reg : Reg) (s : State) : exec reg.readInstr s = .next (s.reading reg) := by
  cases reg <;> rfl

/-- What each write row does to the registers once the gate lets it through. -/
def writeUpdate (i : Instr) : Regs → Regs :=
  match i with
  | .wrCtrl w => Regs.setCtrl (cmdMode w) (cmdIe w)
  | .cmdEncrypt w => Regs.start .encrypt (cmdIe w)
  | .cmdDecrypt w => Regs.start .decrypt (cmdIe w)
  | .wrStatus w => Regs.acknowledge w
  | .wrRounds w => Regs.setRounds w
  | .wrKey n w => Regs.setKey n w
  | .wrData n w => Regs.setData n w
  | .rdCtrl | .rdStatus | .rdRounds | .rdCount | .rdKey _ | .rdData _ | .rdSum | .rdRsvd11 | .rdRsvd12 _ | .wrCount _ | .wrSum _
  | .wrRsvd11 _ | .wrRsvd12 _ _ => id

/-- A write row answers the state after its gated update (41_register_access.md R78). -/
theorem exec_writeInstr (reg : Reg) (w : Word) (s : State) :
    exec (reg.writeInstr w) s = .next (s.writing reg (writeUpdate (reg.writeInstr w))) := by
  cases reg with
  | ctrl => unfold Reg.writeInstr ctrlWriteInstr; cases w.getLsbD 0 <;> cases w.getLsbD 1 <;> rfl
  | _ => rfl

/-- The register an instruction names. -/
def instrReg (i : Instr) : Reg :=
  match i with
  | .rdCtrl | .wrCtrl _ | .cmdEncrypt _ | .cmdDecrypt _ => .ctrl
  | .rdStatus | .wrStatus _ => .status
  | .rdRounds | .wrRounds _ => .rounds
  | .rdCount | .wrCount _ => .count
  | .rdKey n | .wrKey n _ => .key n
  | .rdData n | .wrData n _ => .data n
  | .rdSum | .wrSum _ => .sum
  | .rdRsvd11 | .wrRsvd11 _ => .rsvd11
  | .rdRsvd12 n | .wrRsvd12 n _ => .rsvd12 n

/-- Whether the instruction is a read. -/
def isRead (i : Instr) : Bool :=
  match i with
  | .rdCtrl | .rdStatus | .rdRounds | .rdCount | .rdKey _ | .rdData _ | .rdSum | .rdRsvd11 | .rdRsvd12 _ => true
  | .wrCtrl _ | .cmdEncrypt _ | .cmdDecrypt _ | .wrStatus _ | .wrRounds _ | .wrCount _ | .wrKey _ _ | .wrData _ _ | .wrSum _
  | .wrRsvd11 _ | .wrRsvd12 _ _ => false

/-- Everything `exec` can answer: every instruction is a read of its register or a gated write of it (41_register_access.md R77, R78). -/
theorem exec_eq (i : Instr) (s : State) :
    exec i s = .next (if isRead i then s.reading (instrReg i) else s.writing (instrReg i) (writeUpdate i)) := by
  cases i <;> rfl

end Sys2Proof.Machine
end

