-- ==== Sys2Proof/Laws/Agents.lean ====
section
/-! SUPPORT. Everything a step can do, said once: whose turn it is and what that turn leaves. -/

namespace Sys2Proof.Machine

/-- A step is the turn of the agent `actsNext` names, on the state with that turn taken off the schedule (10_state.md R12). -/
theorem step_eq_turn (s : State) : step s = turn s.actsNext { s with sched := s.sched.tail } := by
  unfold step State.actsNext
  cases h : s.sched with
  | nil => simp only [List.tail_nil]; rw [← h]
  | cons a later => rfl

/-- Everything the host's turn can do: nothing, the oldest transaction, one poll of a WAIT, or one look at `irq` (20_memory.md R40;
30_encoding.md R57; 70_reset_and_hazards.md R123). -/
theorem hostTurn_cases (s : State) :
    (s.program = [] ∧ hostTurn s = .next s) ∨
    (∃ t rest, s.program = .txn t :: rest ∧ hostTurn s = exec (decode t) { s with program := rest }) ∨
    (∃ rest, s.program = .wait :: rest ∧ hostTurn s = .next (afterPoll rest (s.reading .status))) ∨
    (∃ rest, s.program = .takeIrq :: rest ∧ hostTurn s = .next (afterIrq rest s)) := by
  unfold hostTurn
  split
  · next h => exact .inl ⟨h, rfl⟩
  · next t rest h => exact .inr (.inl ⟨t, rest, h, rfl⟩)
  · next rest h => exact .inr (.inr (.inl ⟨rest, h, rfl⟩))
  · next rest h => exact .inr (.inr (.inr ⟨rest, h, rfl⟩))

@[simp] theorem afterPoll_regs (rest : List HostOp) (s : State) : (afterPoll rest s).regs = s.regs := by
  unfold afterPoll; split <;> rfl
@[simp] theorem afterPoll_rdata (rest : List HostOp) (s : State) : (afterPoll rest s).rdata = s.rdata := by
  unfold afterPoll; split <;> rfl
@[simp] theorem afterPoll_sched (rest : List HostOp) (s : State) : (afterPoll rest s).sched = s.sched := by
  unfold afterPoll; split <;> rfl

@[simp] theorem afterIrq_regs (rest : List HostOp) (s : State) : (afterIrq rest s).regs = s.regs := by
  unfold afterIrq; split <;> rfl
@[simp] theorem afterIrq_rdata (rest : List HostOp) (s : State) : (afterIrq rest s).rdata = s.rdata := by
  unfold afterIrq; split <;> rfl
@[simp] theorem afterIrq_sched (rest : List HostOp) (s : State) : (afterIrq rest s).sched = s.sched := by
  unfold afterIrq; split <;> rfl

/-- Everything a step can do to the registers and the schedule: the host's turn leaves them or executes the transaction it issues, the engine's
turn is an engine step, and the reset input's turn is a reset (10_state.md R12). -/
theorem step_cases {s t : State} (h : step s = .next t) :
    t.sched = s.sched.tail ∧
    ((s.actsNext = .host ∧ t.regs = s.regs) ∨
     (∃ i, s.Issues i ∧ isRead i = false ∧ t.regs = s.regs.gated (instrReg i) (writeUpdate i)) ∨
     (s.actsNext = .engine ∧ t.regs = s.regs.engineStep) ∨
     (s.actsNext = .reset ∧ t.regs = Regs.reset)) := by
  rw [step_eq_turn] at h
  cases ha : s.actsNext with
  | engine => rw [ha] at h; cases h; simp
  | reset => rw [ha] at h; cases h; simp
  | host =>
    rw [ha] at h
    obtain ⟨hp, hh⟩ | ⟨w, rest, hp, hh⟩ | ⟨rest, hp, hh⟩ | ⟨rest, hp, hh⟩ :=
      hostTurn_cases { s with sched := s.sched.tail }
    · rw [show turn .host _ = hostTurn _ from rfl, hh] at h; cases h; simp
    · rw [show turn .host _ = hostTurn _ from rfl, hh, exec_eq] at h
      cases h
      cases hr : isRead (decode w)
      · refine ⟨by simp, .inr (.inl ⟨decode w, ⟨ha, w, rest, hp, rfl⟩, hr, by simp⟩)⟩
      · refine ⟨by simp, .inl ⟨rfl, by simp⟩⟩
    · rw [show turn .host _ = hostTurn _ from rfl, hh] at h; cases h; simp
    · rw [show turn .host _ = hostTurn _ from rfl, hh] at h; cases h; simp

/-- A run of one step more takes its first step first. -/
theorem run_succ {n : Nat} {s t : State} (h : step s = .next t) : run (n + 1) s = run n t := by
  have h' : Sys2Proof.core.step s = .next t := h
  unfold run
  simp only [Host.Core.run, h']
  rfl

/-- The last of `n + 1` engine steps (40_round_transform.md R68). -/
theorem Regs.engineSteps_succ (n : Nat) (r : Regs) : Regs.engineSteps (n + 1) r = (Regs.engineSteps n r).engineStep :=
  Function.iterate_succ_apply' _ _ _

end Sys2Proof.Machine
end

