-- ==== Sys2Proof/Laws/PerInstr.lean ====
section
/-! SUPPORT. Statements for all instructions, made per instruction. The family EncodeRow: the word an instruction encodes to selects the
instruction's own row of the opcode map (30_encoding.md R51). -/

namespace Sys2Proof.Laws.EncodeRow

/-- The word of a well-formed instruction selects the instruction's row, `T & mask = match` (30_encoding.md R51). -/
def Statement (i : Instr) : Prop := i.wellFormed = true → (opcodeTable.get i.row).selects (encode i) = true

/-- The bits a mask keeps of a word built from its fields: WE, IDX and WDATA are masked each on its own. -/
theorem mk_and (we we' : Bool) (idx idx' : BitVec 4) (w w' : Word) :
    TxnWord.mk we idx w &&& TxnWord.mk we' idx' w' = TxnWord.mk (we && we') (idx &&& idx') (w &&& w') := by
  apply BitVec.eq_of_getLsbD_eq
  intro j hj
  rw [BitVec.getLsbD_and]
  simp only [TxnWord.getLsbD_mk]
  split_ifs
  · rw [BitVec.getLsbD_and]
  · rw [BitVec.getLsbD_and]
  · cases we <;> cases we' <;> simp

/-- A word selects a row whose mask is over WE and IDX alone when its own WE and IDX do. -/
theorem selects_of_fields {row : OpcodeRow} (we : Bool) (idx idx' idxMask : BitVec 4) (w : Word)
    (hp : row.pattern = TxnWord.mk we idx' 0#32) (hk : row.mask = TxnWord.mk true idxMask 0#32) (h : idx &&& idxMask = idx') :
    row.selects (TxnWord.mk we idx w) = true := by
  simp [OpcodeRow.selects, hp, hk, mk_and, h]

/-- A CTRL write selects a row whose mask is over the low bits of WDATA too when those bits do. -/
theorem selects_of_wdata {row : OpcodeRow} {w : Word} (v k : Word) (hp : row.pattern = TxnWord.mk true 0#4 v)
    (hk : row.mask = TxnWord.mk true 15#4 k) (h : w &&& k = v) : row.selects (TxnWord.mk true 0#4 w) = true := by
  simp [OpcodeRow.selects, hp, hk, mk_and, h]

/-- Bit 0 of a command word alone. -/
theorem and_one (w : Word) : w &&& 1#32 = if w.getLsbD 0 then 1#32 else 0#32 := by
  rw [BitVec.and_one_eq_setWidth_ofBool_getLsbD]
  cases w.getLsbD 0 <;> rfl

/-- Bits 0 and 1 of a command word. -/
theorem and_three (w : Word) :
    w &&& 3#32 = (if w.getLsbD 1 then 2#32 else 0#32) ||| (if w.getLsbD 0 then 1#32 else 0#32) := by
  apply BitVec.eq_of_getLsbD_eq
  intro j hj
  rw [BitVec.getLsbD_and, BitVec.getLsbD_or]
  rcases j with _ | _ | j
  · cases w.getLsbD 0 <;> cases w.getLsbD 1 <;> simp
  · cases w.getLsbD 0 <;> cases w.getLsbD 1 <;> simp
  · have h3 : (3#32).getLsbD (j + 1 + 1) = false := by
      rw [BitVec.getLsbD_ofNat]; simp [Nat.testBit_succ]
    have h2 : (2#32).getLsbD (j + 1 + 1) = false := by
      rw [BitVec.getLsbD_ofNat]; simp [Nat.testBit_succ]
    have h1 : (1#32).getLsbD (j + 1 + 1) = false := by
      rw [BitVec.getLsbD_ofNat]; simp [Nat.testBit_succ]
    cases w.getLsbD 0 <;> cases w.getLsbD 1 <;> simp [h1, h2, h3]

theorem rdCtrl : Statement .rdCtrl := fun _ => selects_of_fields false 0#4 0#4 15#4 _ rfl rfl rfl

theorem wrCtrl (wdata : Word) : Statement (.wrCtrl wdata) := by
  intro h
  refine selects_of_wdata 0#32 1#32 rfl rfl ?_
  have h0 : wdata.getLsbD 0 = false := by simpa [Instr.wellFormed, Word.startIs] using h
  rw [and_one, h0]; rfl

theorem cmdEncrypt (wdata : Word) : Statement (.cmdEncrypt wdata) := by
  intro h
  refine selects_of_wdata 1#32 3#32 rfl rfl ?_
  have h' : wdata.getLsbD 0 = true ∧ wdata.getLsbD 1 = false := by
    simpa [Instr.wellFormed, Word.startIs, Word.modeIs] using h
  rw [and_three, h'.1, h'.2]; rfl

theorem cmdDecrypt (wdata : Word) : Statement (.cmdDecrypt wdata) := by
  intro h
  refine selects_of_wdata 3#32 3#32 rfl rfl ?_
  have h' : wdata.getLsbD 0 = true ∧ wdata.getLsbD 1 = true := by
    simpa [Instr.wellFormed, Word.startIs, Word.modeIs] using h
  rw [and_three, h'.1, h'.2]; rfl

theorem rdStatus : Statement .rdStatus := fun _ => selects_of_fields false 1#4 1#4 15#4 _ rfl rfl rfl
theorem wrStatus (wdata : Word) : Statement (.wrStatus wdata) := fun _ => selects_of_fields true 1#4 1#4 15#4 _ rfl rfl rfl
theorem rdRounds : Statement .rdRounds := fun _ => selects_of_fields false 2#4 2#4 15#4 _ rfl rfl rfl
theorem wrRounds (wdata : Word) : Statement (.wrRounds wdata) := fun _ => selects_of_fields true 2#4 2#4 15#4 _ rfl rfl rfl
theorem rdCount : Statement .rdCount := fun _ => selects_of_fields false 3#4 3#4 15#4 _ rfl rfl rfl
theorem wrCount (wdata : Word) : Statement (.wrCount wdata) := fun _ => selects_of_fields true 3#4 3#4 15#4 _ rfl rfl rfl
theorem rdKey (n : Fin 4) : Statement (.rdKey n) :=
  fun _ => selects_of_fields false _ 4#4 12#4 _ rfl rfl (by clear * -; revert n; decide)
theorem wrKey (n : Fin 4) (wdata : Word) : Statement (.wrKey n wdata) :=
  fun _ => selects_of_fields true _ 4#4 12#4 _ rfl rfl (by clear * -; revert n; decide)
theorem rdData (n : Fin 2) : Statement (.rdData n) :=
  fun _ => selects_of_fields false _ 8#4 14#4 _ rfl rfl (by clear * -; revert n; decide)
theorem wrData (n : Fin 2) (wdata : Word) : Statement (.wrData n wdata) :=
  fun _ => selects_of_fields true _ 8#4 14#4 _ rfl rfl (by clear * -; revert n; decide)
theorem rdSum : Statement .rdSum := fun _ => selects_of_fields false 10#4 10#4 15#4 _ rfl rfl rfl
theorem wrSum (wdata : Word) : Statement (.wrSum wdata) := fun _ => selects_of_fields true 10#4 10#4 15#4 _ rfl rfl rfl
theorem rdRsvd11 : Statement .rdRsvd11 := fun _ => selects_of_fields false 11#4 11#4 15#4 _ rfl rfl rfl
theorem wrRsvd11 (wdata : Word) : Statement (.wrRsvd11 wdata) := fun _ => selects_of_fields true 11#4 11#4 15#4 _ rfl rfl rfl
theorem rdRsvd12 (n : Fin 4) : Statement (.rdRsvd12 n) :=
  fun _ => selects_of_fields false _ 12#4 12#4 _ rfl rfl (by clear * -; revert n; decide)
theorem wrRsvd12 (n : Fin 4) (wdata : Word) : Statement (.wrRsvd12 n wdata) :=
  fun _ => selects_of_fields true _ 12#4 12#4 _ rfl rfl (by clear * -; revert n; decide)

end Sys2Proof.Laws.EncodeRow
end

