-- ==== Sys2Proof/Laws/Program.lean ====
section
/-! SUPPORT. The end state of a host program, one step at a time (70_reset_and_hazards.md R139). -/

namespace Sys2Proof.Machine

/-- Where the program has ended, the end state is that of the point itself. -/
theorem State.endState_of_ended {n : Nat} {awaits : Bool} {s : State} (h : s.ended awaits = true) :
    State.endState n awaits s = s.regsAtEnd := by
  unfold State.endState
  rw [h]

/-- A program that has not ended has no end state in no steps. -/
theorem State.endState_zero {awaits : Bool} {s : State} (h : s.ended awaits = false) : State.endState 0 awaits s = none := by
  unfold State.endState
  rw [h]

/-- A program that has not ended goes on with the next step. -/
theorem State.endState_succ {n : Nat} {awaits : Bool} {s t : State} (h : s.ended awaits = false) (hs : step s = .next t) :
    State.endState (n + 1) awaits s = State.endState n (s.awaitsAfter awaits t) t := by
  conv_lhs => unfold State.endState
  simp only [h, hs]

/-- A program with operations left has not ended. -/
theorem State.ended_of_cons {awaits : Bool} {s : State} {op : HostOp} {rest : List HostOp} (h : s.program = op :: rest) :
    s.ended awaits = false := by
  simp [State.ended, h]

/-- A program that awaits the end of its operation has not ended. -/
theorem State.ended_of_awaits (s : State) : s.ended true = false := by
  simp [State.ended]

end Sys2Proof.Machine
end

