-- ==== Sys2Proof/Tests/Slice0.lean ====
section
/-! SUPPORT. Tests: ill-formed terms that WellFormed refuses, one hand-written word per constructor, one-step tests with the expected values of
95_test_vectors.md, and, for every obligation with hypotheses, a concrete input that meets them all together (`test_witness_...`). -/

open Sys2Proof Sys2Proof.Machine

namespace Sys2Proof.Tests

/-! ### Helpers -/

/-- The state an outcome carries. -/
def nextOf (o : Host.Outcome State Fault Refusal) : Option State :=
  match o with
  | .next t => some t
  | .fault _ => none
  | .refused _ => none

/-- The registers after one transaction word, from given registers. -/
def after (t : TxnWord) (r : Regs) : Option Regs := (nextOf (exec (decode t) { State.reset with regs := r })).map (fun u => u.regs)

/-- What one transaction word returns, from given registers. -/
def response (t : TxnWord) (r : Regs) : Option Word := (nextOf (exec (decode t) { State.reset with regs := r })).bind (fun u => u.rdata)

/-- STATUS and CTRL as they read after one transaction word. -/
def statusAfter (t : TxnWord) (r : Regs) : Option (Word × Word) := (after t r).map (fun q => (q.statusWord, q.ctrlWord))

/-- Registers at reset but for STATUS, spelled as RD_STATUS returns it (10_state.md R22). -/
def withStatus (w : Word) : Regs :=
  { Regs.reset with busy := w.getLsbD 0, done := w.getLsbD 1, errRounds := w.getLsbD 2, errBusy := w.getLsbD 3, errAccess := w.getLsbD 4 }

/-- The "busy state" of 95_test_vectors.md section 2.2: after reset, `WR ROUNDS, 2` and `ENC`, with no engine step yet. -/
def busy2 : Regs := { Regs.reset with rounds := 2#32, sum := 0x9E3779B9#32, busy := true }

/-- The state with given registers, pending operations and schedule. -/
def stateOf (r : Regs) (program : List HostOp) (sched : List Agent) : State := ⟨r, none, program, sched⟩

/-! ### WellFormed refuses an ill-formed term for each of its checks (30_encoding.md R51) -/

theorem test_wf_wrCtrl_with_start : (Instr.wrCtrl 0x1#32).wellFormed = false := by decide
theorem test_wf_cmdEncrypt_without_start : (Instr.cmdEncrypt 0x4#32).wellFormed = false := by decide
theorem test_wf_cmdEncrypt_with_mode : (Instr.cmdEncrypt 0x3#32).wellFormed = false := by decide
theorem test_wf_cmdDecrypt_without_start : (Instr.cmdDecrypt 0x2#32).wellFormed = false := by decide
theorem test_wf_cmdDecrypt_without_mode : (Instr.cmdDecrypt 0x1#32).wellFormed = false := by decide

/-! ### Decoding: one word per constructor, written from R45 and R51: WE in bit 36, IDX in bits 35:32, WDATA below -/

theorem test_decode_rdCtrl : decode 0x0012345678#37 = .rdCtrl := by decide
theorem test_decode_wrCtrl : decode 0x1000000006#37 = .wrCtrl 0x6#32 := by decide
theorem test_decode_cmdEncrypt : decode 0x10FFFFFFFD#37 = .cmdEncrypt 0xFFFFFFFD#32 := by decide
theorem test_decode_cmdDecrypt : decode 0x1000000007#37 = .cmdDecrypt 0x7#32 := by decide
theorem test_decode_rdStatus : decode 0x0100000000#37 = .rdStatus := by decide
theorem test_decode_wrStatus : decode 0x110000001E#37 = .wrStatus 0x1E#32 := by decide
theorem test_decode_rdRounds : decode 0x0200000000#37 = .rdRounds := by decide
theorem test_decode_wrRounds : decode 0x1280000000#37 = .wrRounds 0x80000000#32 := by decide
theorem test_decode_rdCount : decode 0x0300000000#37 = .rdCount := by decide
theorem test_decode_wrCount : decode 0x1300000005#37 = .wrCount 0x5#32 := by decide
theorem test_decode_rdKey : decode 0x0600000000#37 = .rdKey 2 := by decide
theorem test_decode_wrKey : decode 0x1766656463#37 = .wrKey 3 0x66656463#32 := by decide
theorem test_decode_rdData : decode 0x0900000000#37 = .rdData 1 := by decide
theorem test_decode_wrData : decode 0x182C6E6F73#37 = .wrData 0 0x2C6E6F73#32 := by decide
theorem test_decode_rdSum : decode 0x0A00000000#37 = .rdSum := by decide
theorem test_decode_wrSum : decode 0x1A00000001#37 = .wrSum 0x1#32 := by decide
theorem test_decode_rdRsvd11 : decode 0x0B00000000#37 = .rdRsvd11 := by decide
theorem test_decode_rdRsvd12 : decode 0x0E00000000#37 = .rdRsvd12 2 := by decide
theorem test_decode_wrRsvd11 : decode 0x1B00000001#37 = .wrRsvd11 0x1#32 := by decide
theorem test_decode_wrRsvd12 : decode 0x1FFFFFFFFF#37 = .wrRsvd12 3 0xFFFFFFFF#32 := by decide

/-- R51's own table of mnemonics, in its order, next to each word's row. -/
theorem test_row_names :
    (opcodeTable.get (decode 0x1000000003#37).row).mnemonic = "CMD_DECRYPT" ∧
    (opcodeTable.get (decode 0x1C00000000#37).row).mnemonic = "WR_RSVD" ∧
    (opcodeTable.get (decode 0x0B00000000#37).row).mnemonic = "RD_RSVD" := by decide

theorem test_tableWord : decodeTableWord 40 0x1000000003 = some (.cmdDecrypt 0x3#32) ∧ decodeTableWord 40 0x2000000000 = none := by
  decide

/-! ### The round transform: V7, V10 to V13 -/

theorem test_mix_mixed : mix 0x12345678#32 0x9ABCDEF0#32 0x0FEDCBA9#32 0x87654321#32 = 0x37E4B1B5#32 := by decide
theorem test_mix_drops_top_nibble : mix 0xF0000000#32 0#32 0#32 0#32 = 0xF7800000#32 := by decide
theorem test_mix_wraps : mix 0xFFFFFFFF#32 0#32 0#32 1#32 = 0xF800000F#32 := by decide

/-- V10: one ENC_ROUND, completing. -/
theorem test_encStep :
    Regs.engineStep { Regs.reset with sum := 0x9E3779B9#32, rounds := 1#32, busy := true } =
      { Regs.reset with data := ⟨0x9E3779B9#32, 0xDBE8D32F#32⟩, sum := 0x3C6EF372#32, count := 1#32, rounds := 1#32, done := true } := by
  decide

/-- V11: one DEC_ROUND, completing. -/
theorem test_decStep :
    Regs.engineStep { Regs.reset with data := ⟨0x9E3779B9#32, 0xDBE8D32F#32⟩, sum := 0x9E3779B9#32, rounds := 1#32, mode := .decrypt, busy := true } =
      { Regs.reset with count := 1#32, rounds := 1#32, mode := .decrypt, done := true } := by
  decide

/-- V12: every adder wraps; and the row with four different key words. -/
theorem test_encRound_corners :
    encRound ⟨0xFFFFFFFF#32, 0xFFFFFFFF#32⟩ ⟨0xFFFFFFFF#32, 0xFFFFFFFF#32, 0xFFFFFFFF#32, 0xFFFFFFFF#32⟩ 0x9E3779B9#32 =
      ⟨0x663779A8#32, 0x6428D2D1#32⟩ ∧
    encRound ⟨1#32, 2#32⟩ ⟨3#32, 4#32, 5#32, 6#32⟩ 0x9E3779B9#32 = ⟨0x9E37799D#32, 0xDBE8D153#32⟩ := by decide

/-- V13: the decrypt round of the same. -/
theorem test_decRound_corners :
    decRound ⟨0x663779A8#32, 0x6428D2D1#32⟩ ⟨0xFFFFFFFF#32, 0xFFFFFFFF#32, 0xFFFFFFFF#32, 0xFFFFFFFF#32⟩ 0x9E3779B9#32 =
      ⟨0xFFFFFFFF#32, 0xFFFFFFFF#32⟩ ∧
    decRound ⟨0x9E37799D#32, 0xDBE8D153#32⟩ ⟨3#32, 4#32, 5#32, 6#32⟩ 0x9E3779B9#32 = ⟨1#32, 2#32⟩ := by decide

/-- V15: three rounds of `transform`, and back. -/
theorem test_transform_three :
    transform ⟨1#32, 2#32⟩ ⟨3#32, 4#32, 5#32, 6#32⟩ .encrypt 3 = ⟨0x4A209065#32, 0xF914CDFB#32⟩ ∧
    transform ⟨0x4A209065#32, 0xF914CDFB#32⟩ ⟨3#32, 4#32, 5#32, 6#32⟩ .decrypt 3 = ⟨1#32, 2#32⟩ := by decide

/-- V3: "son, and" under "0123456789abcdef", 32 rounds. -/
theorem test_transform_v3 :
    transform ⟨0x2C6E6F73#32, 0x646E6120#32⟩ ⟨0x33323130#32, 0x37363534#32, 0x62613938#32, 0x66656463#32⟩ .encrypt 32 =
      ⟨0x7DB70632#32, 0x4F5CA2DC#32⟩ := by decide

/-! ### Register access: V20 to V46 -/

theorem test_rdCtrl : response 0x0000000000#37 { Regs.reset with mode := .decrypt, ie := true } = some 0x6#32 := by decide
theorem test_rdStatus : response 0x0100000000#37 busy2 = some 0x1#32 := by decide
theorem test_wrStatus : statusAfter 0x1100000004#37 (withStatus 0xE#32) = some (0xA#32, 0#32) := by decide
theorem test_wrStatus_busy : after 0x110000001F#37 busy2 = some busy2 := by decide
theorem test_rdRounds : response 0x0200000000#37 Regs.reset = some 0x20#32 := by decide
theorem test_wrRounds : after 0x12FFFFFFFF#37 Regs.reset = some { Regs.reset with rounds := 0xFFFFFFFF#32 } := by decide
theorem test_wrRounds_busy : after 0x1200000001#37 busy2 = some { busy2 with errBusy := true } := by decide
theorem test_rdCount : response 0x0300000000#37 busy2.engineStep = some 0x1#32 := by decide
theorem test_wrCount : after 0x1300000005#37 Regs.reset = some (withStatus 0x10#32) := by decide
theorem test_rdKey : response 0x0700000000#37 { Regs.reset with key := ⟨1#32, 2#32, 3#32, 4#32⟩ } = some 0x4#32 := by decide
theorem test_wrKey :
    after 0x1662613938#37 Regs.reset = some { Regs.reset with key := ⟨0#32, 0#32, 0x62613938#32, 0#32⟩ } := by decide
theorem test_wrKey_busy : after 0x1400000001#37 busy2 = some { busy2 with errBusy := true } := by decide
theorem test_rdData : response 0x0800000000#37 busy2.engineStep = some 0x9E3779B9#32 := by decide
theorem test_wrData : after 0x19646E6120#37 Regs.reset = some { Regs.reset with data := ⟨0#32, 0x646E6120#32⟩ } := by decide
theorem test_wrData_busy : after 0x1900000001#37 busy2 = some { busy2 with errBusy := true } := by decide
theorem test_rdSum : response 0x0A00000000#37 busy2 = some 0x9E3779B9#32 := by decide
theorem test_wrSum_busy : after 0x1A00000000#37 busy2 = some { busy2 with errAccess := true } := by decide
theorem test_rdRsvd11 : response 0x0B00000000#37 busy2 = some 0#32 := by decide
theorem test_rdRsvd15 : response 0x0F00000000#37 busy2 = some 0#32 := by decide
theorem test_wrRsvd11 : after 0x1BFFFFFFFF#37 Regs.reset = some (withStatus 0x10#32) := by decide
theorem test_wrRsvd13_busy : after 0x1D00000000#37 busy2 = some { busy2 with errAccess := true } := by decide

/-! ### Commands: V30, V50 to V60 -/

theorem test_wrCtrl : statusAfter 0x10FFFFFFF6#37 Regs.reset = some (0#32, 0x6#32) := by decide
theorem test_wrCtrl_busy : after 0x1000000004#37 busy2 = some { busy2 with errBusy := true } := by decide
theorem test_enc : after 0x1000000009#37 { Regs.reset with rounds := 2#32, done := true } = some busy2 := by decide
theorem test_enc_refused : statusAfter 0x1000000005#37 { Regs.reset with rounds := 0#32 } = some (0x4#32, 0x4#32) := by decide
theorem test_dec :
    after 0x1000000003#37 { Regs.reset with rounds := 0xFFFFFFFF#32 } =
      some { Regs.reset with rounds := 0xFFFFFFFF#32, mode := .decrypt, sum := 0x61C88647#32, busy := true } := by decide
theorem test_dec_busy : after 0x1000000003#37 busy2 = some { busy2 with errBusy := true } := by decide

/-! ### The interrupt line and reset: V70 to V78, V80 -/

theorem test_irq_masked : (withStatus 0x1E#32).irq = false := by decide
theorem test_irq_busy_is_no_source : Regs.irq { withStatus 0x1#32 with ie := true } = false := by decide
theorem test_irq_done : Regs.irq { withStatus 0x2#32 with ie := true } = true := by decide
theorem test_irq_stays_while_busy :
    (after 0x1000000000#37 { busy2 with ie := true, errBusy := true }).map Regs.irq = some true := by decide
theorem test_reset_mid_operation :
    (nextOf (step (stateOf busy2.engineStep [] [.reset]))).map (fun t => t.regs) = some Regs.reset := by decide

/-! ### Steps: the host's turn, the polling loop, the word `withFetchWord` places -/

theorem test_wait_repeats :
    (nextOf (step (stateOf busy2 [.wait] [.host]))).map (fun t => (t.program, t.rdata)) = some ([.wait], some 0x1#32) := by decide
theorem test_wait_ends :
    (nextOf (step (stateOf (withStatus 0x2#32) [.wait] [.host]))).map (fun t => (t.program, t.rdata)) = some ([], some 0x2#32) := by decide
theorem test_fetch_word : nextOf (step (State.reset.withFetchWord 40 0x1300000005)) =
    some { State.reset with regs := withStatus 0x10#32 } := by decide

/-! ### The end of a host program (R139): a reset and a status read end it as in P6; a busy block gives none; an error's `irq` shows no end -/

theorem test_end_after_reset :
    (State.endState 4 false (stateOf Regs.reset [.txn 0x1000000005#37, .txn 0x0100000000#37] [.host, .engine, .reset, .host])) =
      some Regs.reset := by decide
theorem test_no_end_while_busy : State.endState 1 false (stateOf busy2 [] []) = none := by decide
theorem test_no_end_by_error_irq :
    State.endState 3 false (stateOf { Regs.reset with rounds := 1#32, errAccess := true } [.txn 0x1000000005#37, .takeIrq] [.host, .engine, .host]) = none := by
  decide

/-! ### Packing and the assembler: V4, V5, section 2.4 -/

theorem test_le32 : le32 0x73#8 0x6F#8 0x6E#8 0x2C#8 = 0x2C6E6F73#32 := by decide
theorem test_pack_short_key : packKey [0x61#8, 0x62#8, 0x63#8, 0x64#8, 0x65#8] = ⟨0x64636261#32, 0x65#32, 0#32, 0#32⟩ := by decide
theorem test_pack_short_block : packBlock [0x58#8, 0x59#8] = ⟨0x5958#32, 0#32⟩ := by decide
theorem test_assemble_lines :
    parseLine 1 "WR KEY0, 0x33323130 ; k0".toList = .ok [.txn 0x1433323130#37] ∧
    parseLine 1 "ENC.IE".toList = .ok [.txn 0x1000000005#37] ∧
    parseLine 1 "CLRST".toList = .ok [.txn 0x110000001E#37] := by decide
theorem test_assemble_bytes :
    parseLine 1 ("SETBLKB ".toList ++ (quoteChar :: "XY".toList) ++ [quoteChar]) = .ok [.txn 0x1800005958#37, .txn 0x1900000000#37] := by decide
theorem test_assemble_refuses :
    parseLine 7 "RD KEY4".toList = .error (.register 7 "KEY4".toList) ∧
    parseLine 8 "WR ROUNDS, 4294967296".toList = .error (.immediate 8 "4294967296".toList) ∧
    parseLine 9 "CANCEL".toList = .error (.mnemonic 9 "CANCEL".toList) := by decide
theorem test_disassemble :
    (disassemble (decode 0x1000000009#37)).text = "WR CTRL, 0x00000009".toList ∧
    (disassemble (decode 0x1CFFFFFFFF#37)).text = "WR RSVD12, 0xFFFFFFFF".toList ∧
    (disassemble (decode 0x1000000007#37)).text = "DEC.IE".toList := by decide

/-! ### Witnesses: for every obligation with hypotheses, an input that meets them all together -/

theorem test_witness_EncodedInstructionDecodesBack :
    (Instr.wrCtrl 0xFFFFFFFE#32).wellFormed = true ∧ (Instr.cmdEncrypt 0xFFFFFFFD#32).wellFormed = true ∧
    (Instr.cmdDecrypt 0xFFFFFFFF#32).wellFormed = true ∧ (Instr.wrRsvd12 3 0xFFFFFFFF#32).wellFormed = true := by decide

/-- A START word of each kind: `ENC`'s 1 and 5, `DEC`'s 3 and 7, and 9, the least word with a reserved bit. -/
theorem test_witness_DisassemblyAssemblesBack :
    (0x1#32).getLsbD 0 = true ∧ (0x7#32).getLsbD 0 = true ∧ (0x9#32).getLsbD 0 = true ∧
    disassemble (decode (TxnWord.mk true 0#4 0x5#32)) = .enc true ∧ disassemble (decode (TxnWord.mk true 0#4 0x7#32)) = .dec true ∧
    disassemble (decode (TxnWord.mk true 0#4 0x9#32)) = .wr .ctrl 0x9#32 := by decide

theorem test_witness_AssemblerRefusesByNameAndLine :
    (∀ e ∈ plainMnemonics, e.1.toList ≠ "CANCEL".toList) ∧ (∀ k ∈ numericMnemonics, k.toList ≠ "CANCEL".toList) ∧
    (∀ k ∈ quotedMnemonics, k.toList ≠ "CANCEL".toList) ∧ (∀ reg, (regName reg).toList ≠ "KEY4".toList) ∧
    parseImm "4294967296".toList = none := by
  refine ⟨by decide, by decide, by decide, fun reg => ?_, by decide⟩
  cases reg with
  | key n => revert n; decide
  | data n => revert n; decide
  | rsvd12 n => revert n; decide
  | _ => decide

theorem test_witness_PseudoInstructionsExpand :
    ∃ s : State, s.sched = .host :: [] ∧ s.program = .wait :: [] ∧ (s.regs.read .status).getLsbD 0 = true :=
  ⟨stateOf busy2 [.wait] [.host], by decide⟩

theorem test_witness_HostStepRunsDecodedTransaction :
    (∃ s : State, s.program = .txn 0x1300000005#37 :: [] ∧ s.sched = .host :: []) ∧
    ∃ s : State, s.program = .txn 0x1300000005#37 :: [] ∧ s.sched = [] ∧ s.regs.busy = false :=
  ⟨⟨stateOf busy2 [.txn 0x1300000005#37] [.host], by decide⟩, ⟨stateOf Regs.reset [.txn 0x1300000005#37] [], by decide⟩⟩

theorem test_witness_ResetStepFromAnyState : ∃ s : State, s.sched = .reset :: [] ∧ s.regs.busy = true :=
  ⟨stateOf busy2 [] [.reset], by decide⟩

theorem test_witness_EveryStepKeepsInvariants :
    (∃ s t, s.regs.Inv ∧ s.regs.busy = true ∧ step s = .next t) ∧
    ∃ t, run 1 { State.reset with program := [], sched := [.host] } = .next t :=
  ⟨⟨stateOf busy2 [] [.engine], _, by decide, by decide, rfl⟩, _, rfl⟩

/-- For each clause: an idle state; a program with nothing to issue; a START alone; a START with each way to observe its end, under a schedule
and with none. -/
theorem test_witness_IdleBlockKeepsItsState :
    (∃ s : State, s.program = [] ∧ s.regs.busy = false ∧ s.actsNext ≠ .reset) ∧
    (∃ (s : State) (t : TxnWord), s.sched = .host :: [.engine] ∧ s.program = [.txn t] ∧ decode t = startCommand .encrypt 1#32 ∧
      s.regs.busy = false ∧ s.regs.rounds ≠ 0#32) ∧
    (∃ (s : State) (t : TxnWord) (n : Nat), s.sched = .host :: [.engine, .host] ∧ s.NoReset ∧ s.program = [.txn t, .wait] ∧
      decode t = startCommand .decrypt 3#32 ∧ s.regs.busy = false ∧ s.regs.rounds ≠ 0#32 ∧ State.endState n false s ≠ none) ∧
    (∃ (s : State) (t : TxnWord) (n : Nat), s.sched = .host :: [.engine, .host] ∧ s.NoReset ∧ s.program = [.txn t, .takeIrq] ∧
      decode t = startCommand .encrypt 5#32 ∧ s.regs.busy = false ∧ s.regs.rounds ≠ 0#32 ∧ State.endState n false s ≠ none) ∧
    ∃ (s : State) (t : TxnWord), (5#32).getLsbD 2 = true ∧ s.regs.errRounds = false ∧ s.regs.errBusy = false ∧ s.regs.errAccess = false ∧
      s.sched = [] ∧ s.program = [.txn t, .takeIrq] ∧ decode t = startCommand .encrypt 5#32 ∧ s.regs.busy = false ∧
      s.regs.rounds ≠ 0#32 :=
  ⟨⟨stateOf Regs.reset [] [.engine], by decide⟩, ⟨stateOf Regs.reset [.txn 0x1000000001#37] [.host, .engine], _, rfl, rfl, by decide⟩,
    ⟨stateOf { Regs.reset with rounds := 1#32 } [.txn 0x1000000003#37, .wait] [.host, .engine, .host], _, 3, rfl, by decide, rfl, by decide⟩,
    ⟨stateOf { Regs.reset with rounds := 1#32 } [.txn 0x1000000005#37, .takeIrq] [.host, .engine, .host], _, 3, rfl, by decide, rfl, by decide⟩,
    ⟨stateOf Regs.reset [.txn 0x1000000005#37, .takeIrq] [], _, by decide, rfl, rfl, rfl, rfl, rfl, by decide⟩⟩

/-- Both a round that does not complete (ROUNDS = 2) and one that does (ROUNDS = 1). -/
theorem test_witness_EncryptRoundStep :
    (∃ s : State, s.sched = .engine :: [] ∧ s.regs.busy = true ∧ s.regs.mode = .encrypt ∧ s.regs.count + 1#32 ≠ s.regs.rounds) ∧
    ∃ s : State, s.sched = .engine :: [] ∧ s.regs.busy = true ∧ s.regs.mode = .encrypt ∧ s.regs.count + 1#32 = s.regs.rounds :=
  ⟨⟨stateOf busy2 [] [.engine], by decide⟩, ⟨stateOf { busy2 with rounds := 1#32 } [] [.engine], by decide⟩⟩

theorem test_witness_DecryptRoundStep :
    (∃ s : State, s.sched = .engine :: [] ∧ s.regs.busy = true ∧ s.regs.mode = .decrypt ∧ s.regs.count + 1#32 ≠ s.regs.rounds) ∧
    ∃ s : State, s.sched = .engine :: [] ∧ s.regs.busy = true ∧ s.regs.mode = .decrypt ∧ s.regs.count + 1#32 = s.regs.rounds :=
  ⟨⟨stateOf { busy2 with mode := .decrypt } [] [.engine], by decide⟩,
    ⟨stateOf { busy2 with mode := .decrypt, rounds := 1#32 } [] [.engine], by decide⟩⟩

theorem test_witness_EngineIdleWhileNotBusy : ∃ s : State, s.sched = .engine :: [] ∧ s.regs.busy = false :=
  ⟨stateOf Regs.reset [] [.engine], by decide⟩

/-- Registers just before the completing round, in each mode: ROUNDS = 1, and ROUNDS = 2^32 - 1 to encrypt. -/
theorem test_witness_CompletingRoundSumAndFlags :
    (∃ r : Regs, r.Inv ∧ r.busy = true ∧ r.count + 1#32 = r.rounds ∧ r.mode = .encrypt ∧ r.rounds = 0xFFFFFFFF#32) ∧
    ∃ r : Regs, r.Inv ∧ r.busy = true ∧ r.count + 1#32 = r.rounds ∧ r.mode = .decrypt ∧ r.rounds = 1#32 :=
  ⟨⟨{ busy2 with rounds := 0xFFFFFFFF#32, count := 0xFFFFFFFE#32, sum := 0x61C88647#32 }, by decide⟩,
    ⟨{ busy2 with rounds := 1#32, mode := .decrypt }, by decide⟩⟩

/-- One round from the command to the end, in each mode. -/
theorem test_witness_OperationComputesTransform (m : Mode) :
    ∃ (s u : State) (wdata : Word) (n : Nat) (t v : State),
      s.regs.busy = false ∧ s.regs.rounds ≠ 0#32 ∧ s.NoReset ∧ exec (startCommand m wdata) s = .next u ∧
      (∀ j ≤ n, ∀ x, run j u = .next x → x.regs.busy = true) ∧ run n u = .next t ∧ step t = .next v ∧ v.regs.busy = false := by
  cases m
  · refine ⟨stateOf { Regs.reset with rounds := 1#32 } [] [], _, 1#32, 0, _, _, by decide, by decide, by decide, rfl, ?_, rfl, rfl, by decide⟩
    intro j hj x hx
    obtain rfl : j = 0 := by omega
    cases hx; decide
  · refine ⟨stateOf { Regs.reset with rounds := 1#32 } [] [], _, 3#32, 0, _, _, by decide, by decide, by decide, rfl, ?_, rfl, rfl, by decide⟩
    intro j hj x hx
    obtain rfl : j = 0 := by omega
    cases hx; decide

/-- An operation that stays in progress, and one that completes. -/
theorem test_witness_OperationInProgressStaysOrCompletes :
    (∃ s t : State, s.regs.InProgress ⟨0#32, 0#32⟩ ⟨0#32, 0#32, 0#32, 0#32⟩ .encrypt 2#32 ∧ s.actsNext ≠ .reset ∧ step s = .next t ∧
      t.regs.busy = true) ∧
    ∃ s t : State, s.regs.InProgress ⟨0#32, 0#32⟩ ⟨0#32, 0#32, 0#32, 0#32⟩ .encrypt 1#32 ∧ s.actsNext ≠ .reset ∧ step s = .next t ∧
      t.regs.busy = false :=
  ⟨⟨stateOf busy2 [] [.engine], _, by decide, by decide, rfl, by decide⟩,
    ⟨stateOf { busy2 with rounds := 1#32 } [] [.engine], _, by decide, by decide, rfl, by decide⟩⟩

theorem test_witness_BlockInvolution : (1 ≤ 1) ∧ ∃ r : Regs, r.busy = false ∧ r.rounds ≠ 0#32 := ⟨by decide, Regs.reset, by decide⟩

/-- Both clauses of the prefix: c = 0 just after the command, and c = 1 after one round. -/
theorem test_witness_EncryptPrefixIsTransform (n : Nat) (hn : n ≤ 1) :
    ∃ (s u : State) (wdata : Word) (t : State),
      s.regs.busy = false ∧ s.regs.rounds ≠ 0#32 ∧ s.NoReset ∧ exec (.cmdEncrypt wdata) s = .next u ∧
      (∀ j ≤ n, ∀ x, run j u = .next x → x.regs.busy = true) ∧ run n u = .next t ∧ t.regs.count = BitVec.ofNat 32 n := by
  have hb : ∀ j ≤ 1, ∀ x, run j (stateOf busy2 [] []) = .next x → x.regs.busy = true := by
    intro j hj x hx
    obtain rfl | rfl : j = 0 ∨ j = 1 := by omega
    · cases hx; decide
    · cases hx; decide
  have he : exec (.cmdEncrypt 1#32) (stateOf { Regs.reset with rounds := 2#32 } [] []) = .next (stateOf busy2 [] []) := by rfl
  obtain rfl | rfl : n = 0 ∨ n = 1 := by omega
  · exact ⟨stateOf { Regs.reset with rounds := 2#32 } [] [], _, 1#32, _, by decide, by decide, by decide, he,
      fun j hj => hb j (by omega), rfl, by decide⟩
  · exact ⟨stateOf { Regs.reset with rounds := 2#32 } [] [], _, 1#32, _, by decide, by decide, by decide, he,
      fun j hj => hb j hj, rfl, by decide⟩

theorem test_witness_OperationTakesExactlyItsRounds :
    (∃ s t : State, s.regs.Inv ∧ s.regs.busy = true ∧ s.actsNext = .host ∧ step s = .next t) ∧
    (∃ s t : State, s.regs.Inv ∧ s.regs.busy = true ∧ s.actsNext = .engine ∧ step s = .next t) ∧
    ∃ (r : Regs) (n : Nat), r.Inv ∧ r.busy = true ∧ n ≤ r.rounds.toNat - r.count.toNat ∧ n = 2 :=
  ⟨⟨stateOf busy2 [.txn 0x1000000003#37] [.host], _, by decide, by decide, by decide, rfl⟩,
    ⟨stateOf busy2 [] [.engine], _, by decide, by decide, by decide, rfl⟩, ⟨busy2, 2, by decide⟩⟩

theorem test_witness_UnscheduledOperationCompletes : ∃ s : State, s.regs.Inv ∧ s.regs.busy = true ∧ s.sched = [] :=
  ⟨stateOf busy2 [] [], by decide⟩

theorem test_witness_ResultDependsOnInputsOnly :
    ∃ r q : Regs, r ≠ q ∧ r.busy = false ∧ q.busy = false ∧ r.rounds ≠ 0#32 ∧ r.key = q.key ∧ r.rounds = q.rounds ∧ r.data = q.data :=
  ⟨Regs.reset, withStatus 0x1E#32, by decide⟩

theorem test_witness_ReadsChangeNothing : TxnWord.we 0x0FFFFFFFFF#37 = false ∧ TxnWord.we 0x0000000000#37 = false := by decide

theorem test_witness_ReadCtrlReturnsModeAndIe : (0 ≠ 1 ∧ 0 ≠ 2) ∧ (3 ≠ 1 ∧ 3 ≠ 2) := by decide

theorem test_witness_BusyGateRefusesWrites :
    (∃ s : State, 9#4 ∈ [0#4, 2#4, 4#4, 5#4, 6#4, 7#4, 8#4, 9#4] ∧ s.regs.busy = true) ∧
    (∃ s : State, (10#4 ∉ [0#4, 2#4, 4#4, 5#4, 6#4, 7#4, 8#4, 9#4] ∨ s.regs.busy = false) ∧ s.regs.busy = true) ∧
    ∃ s : State, (9#4 ∉ [0#4, 2#4, 4#4, 5#4, 6#4, 7#4, 8#4, 9#4] ∨ s.regs.busy = false) :=
  ⟨⟨stateOf busy2 [] [], by decide⟩, ⟨stateOf busy2 [] [], by decide⟩, ⟨State.reset, by decide⟩⟩

theorem test_witness_AccessErrorRefusesWrites :
    ∀ i ∈ [Instr.wrCount 0#32, .wrSum 0#32, .wrRsvd11 0#32, .wrRsvd12 3 0#32],
      i ∈ [Instr.wrCount 0#32, .wrSum 0#32, .wrRsvd11 0#32, .wrRsvd12 3 0#32] := by decide

theorem test_witness_AcceptedWriteIsReadBack :
    ∃ s : State, s.regs.busy = false ∧ 0#4 ∈ [0#4, 2#4, 4#4, 5#4, 6#4, 7#4, 8#4, 9#4] ∧ 9#4 ∈ [0#4, 2#4, 4#4, 5#4, 6#4, 7#4, 8#4, 9#4] :=
  ⟨State.reset, by decide⟩

theorem test_witness_AcceptedStart :
    ∃ s : State, (0x1#32).getLsbD 0 = true ∧ (0x3#32).getLsbD 0 = true ∧ s.regs.busy = false ∧ s.regs.rounds ≠ 0#32 :=
  ⟨State.reset, by decide⟩

theorem test_witness_RefusedStart :
    ∃ s : State, (0x1#32).getLsbD 0 = true ∧ (0x3#32).getLsbD 0 = true ∧ s.regs.busy = false ∧ s.regs.rounds = 0#32 :=
  ⟨stateOf { Regs.reset with rounds := 0#32 } [] [], by decide⟩

theorem test_witness_WriteCtrl : (0xFFFFFFFE#32).getLsbD 0 = false := by decide
theorem test_witness_CommandEncrypt : (0xFFFFFFFD#32).getLsbD 0 = true ∧ (0xFFFFFFFD#32).getLsbD 1 = false := by decide
theorem test_witness_CommandDecrypt : (0xFFFFFFFF#32).getLsbD 0 = true ∧ (0xFFFFFFFF#32).getLsbD 1 = true := by decide

/-- Each branch of the rule's order: an access error while busy, a busy error, a rounds error, and none for a read. -/
theorem test_witness_AtMostOneErrorFlag :
    Event.errBusy ∈ [Event.errRounds, Event.errBusy, Event.errAccess] ∧
    statusAfter 0x1A00000000#37 busy2 = some (0x11#32, 0#32) ∧ statusAfter 0x1000000001#37 busy2 = some (0x9#32, 0#32) ∧
    statusAfter 0x1000000001#37 { Regs.reset with rounds := 0#32 } = some (0x4#32, 0#32) ∧
    statusAfter 0x0A00000000#37 busy2 = some (0x1#32, 0#32) := by decide

theorem test_witness_AcknowledgeLowersIrq :
    (∃ (w : Word) (s : State), s.regs.irq = true ∧ ∀ e, s.regs.flag e = true → w.getLsbD e.code = true) ∧
    (∃ (w : Word) (e : Event), w.getLsbD e.code = true) ∧
    (∃ (w : Word) (s : State), s.regs.irq = true ∧ s.regs.busy = false ∧ w.getLsbD 2 = false) ∧
    ∃ (w : Word) (s : State) (i : Instr), s.regs.busy = false ∧ s.regs.rounds ≠ 0#32 ∧ i ∈ [Instr.cmdEncrypt w, Instr.cmdDecrypt w] := by
  refine ⟨⟨0x1E#32, stateOf { withStatus 0x1E#32 with ie := true } [] [], by decide, fun e _ => ?_⟩, ⟨0x2#32, .done, by decide⟩,
    ⟨0#32, stateOf { withStatus 0x2#32 with ie := true } [] [], by decide⟩, ⟨3#32, State.reset, .cmdDecrypt 3#32, by decide⟩⟩
  cases e <;> decide

theorem test_witness_ClearBeforeCompletionKeepsDone : ∃ s : State, s.regs.Inv ∧ s.regs.busy = true ∧ s.regs.count + 1#32 = s.regs.rounds :=
  ⟨stateOf { busy2 with rounds := 1#32 } [] [], by decide⟩

/-- A flag that falls in each of the three ways. -/
theorem test_witness_FlagsAreSticky :
    (∃ s t, step s = .next t ∧ s.regs.flag .errBusy = true ∧ t.regs.flag .errBusy = false ∧ s.actsNext = .reset) ∧
    (∃ s t, step s = .next t ∧ s.regs.flag .errBusy = true ∧ t.regs.flag .errBusy = false ∧ s.Issues (.wrStatus 0x8#32)) ∧
    ∃ s t, step s = .next t ∧ s.regs.flag .done = true ∧ t.regs.flag .done = false ∧ s.Issues (.cmdEncrypt 0x1#32) :=
  ⟨⟨stateOf (withStatus 0x8#32) [] [.reset], _, rfl, by decide⟩,
    ⟨stateOf (withStatus 0x8#32) [.txn 0x1100000008#37] [.host], _, rfl, by decide, by decide, by decide, _, _, rfl, by decide⟩,
    ⟨stateOf (withStatus 0x2#32) [.txn 0x1000000001#37] [.host], _, rfl, by decide, by decide, by decide, _, _, rfl, by decide⟩⟩

theorem test_witness_HostCannotDisturbOperation : ∃ s : State, s.regs.busy = true := ⟨stateOf busy2 [] [], by decide⟩

theorem test_witness_KeyWrittenOnlyByHostOrReset :
    (∃ s t, step s = .next t ∧ t.regs.key ≠ s.regs.key ∧ s.Issues (.wrKey 2 0x62613938#32)) ∧
    ∃ s t, step s = .next t ∧ t.regs.key ≠ s.regs.key ∧ s.actsNext = .reset :=
  ⟨⟨stateOf Regs.reset [.txn 0x1662613938#37] [.host], _, rfl, by decide, by decide, _, _, rfl, by decide⟩,
    ⟨stateOf { Regs.reset with key := ⟨1#32, 0#32, 0#32, 0#32⟩ } [] [.reset], _, rfl, by decide⟩⟩

theorem test_witness_SumAndCountWrittenOnlyByStartAndRound :
    (∃ s t, step s = .next t ∧ (t.regs.sum ≠ s.regs.sum ∨ t.regs.count ≠ s.regs.count) ∧ s.Issues (.cmdDecrypt 0x3#32)) ∧
    (∃ s t, step s = .next t ∧ (t.regs.sum ≠ s.regs.sum ∨ t.regs.count ≠ s.regs.count) ∧ s.actsNext = .engine) ∧
    ∃ s t, step s = .next t ∧ (t.regs.sum ≠ s.regs.sum ∨ t.regs.count ≠ s.regs.count) ∧ s.actsNext = .reset :=
  ⟨⟨stateOf Regs.reset [.txn 0x1000000003#37] [.host], _, rfl, by decide, by decide, _, _, rfl, by decide⟩,
    ⟨stateOf busy2 [] [.engine], _, rfl, by decide⟩, ⟨stateOf busy2 [] [.reset], _, rfl, by decide⟩⟩

theorem test_witness_BusyChangesOnlyByStartCompletionReset :
    (∃ s t, step s = .next t ∧ s.regs.busy = false ∧ t.regs.busy = true) ∧
    (∃ s t, step s = .next t ∧ s.regs.busy = true ∧ t.regs.busy = false ∧ s.actsNext = .reset) ∧
    ∃ s t, step s = .next t ∧ s.regs.busy = true ∧ t.regs.busy = false ∧ s.actsNext = .engine :=
  ⟨⟨stateOf Regs.reset [.txn 0x1000000001#37] [.host], _, rfl, by decide⟩, ⟨stateOf busy2 [] [.reset], _, rfl, by decide⟩,
    ⟨stateOf { busy2 with rounds := 1#32 } [] [.engine], _, rfl, by decide⟩⟩

theorem test_witness_MaterialIsTruncatedOrZeroExtended :
    ([] : List Byte).length ≤ 8 ∧ [1#8, 2#8, 3#8, 4#8, 5#8, 6#8, 7#8, 8#8].length ≤ 8 := by decide

theorem test_witness_InstancesShareNothing :
    ∃ (p : List State) (i j : Nat) (s : State), p[i]? = some s ∧ j ≠ i ∧ p[j]? ≠ none :=
  ⟨[State.reset, stateOf busy2 [] []], 1, 0, stateOf busy2 [] [], by decide⟩

end Sys2Proof.Tests
end

/-! What a step can do to the registers, case by case: `step_effect` refines `step_cases` by saying what a host's write leaves, so that a
claim about every step is a case split with one register update in each case. -/

namespace Sys2Proof.Machine

/-- A transaction word in the table's 40 bits is itself (30_encoding.md R45). -/
theorem tableWord_toNat (t : TxnWord) : tableWord 40 t.toNat = some t := by
  have ht : t.toNat < 2 ^ 37 := t.isLt
  rw [tableWord, Nat.mod_eq_of_lt (by omega), if_pos ht, BitVec.ofNat_toNat, BitVec.setWidth_eq]

/-- The host's turn with a transaction to issue (20_memory.md R40; 30_encoding.md R58). -/
theorem hostTurn_txn {s : State} {t : TxnWord} {rest : List HostOp} (h : s.program = .txn t :: rest) :
    hostTurn s = exec (decode t) { s with program := rest } := by
  unfold hostTurn
  rw [h]

/-- The machine answers every step (93_implementation_defined.md section 2). -/
theorem step_answers (s : State) : ∃ t, step s = .next t := by
  rw [step_eq_turn]
  cases s.actsNext with
  | engine => exact ⟨_, rfl⟩
  | reset => exact ⟨_, rfl⟩
  | host =>
    obtain ⟨-, h⟩ | ⟨t, rest, -, h⟩ | ⟨rest, -, h⟩ | ⟨rest, -, h⟩ := hostTurn_cases { s with sched := s.sched.tail }
    · exact ⟨_, h⟩
    · exact ⟨_, h.trans (exec_eq _ _)⟩
    · exact ⟨_, h⟩
    · exact ⟨_, h⟩

/-- What every step keeps holds at the end of every run, where it held at the start. -/
theorem run_keeps {P : State → Prop} (hstep : ∀ s t, P s → step s = .next t → P t) :
    ∀ {n : Nat} {s t : State}, P s → run n s = .next t → P t := by
  intro n
  induction n with
  | zero => intro s t hs h; cases h; exact hs
  | succ n ih =>
    intro s t hs h
    obtain ⟨u, hu⟩ := step_answers s
    exact ih (hstep s u hs hu) (run_succ hu ▸ h)

/-- The registers `q` that a host's turn can leave (30_encoding.md R51; 41_register_access.md R77 to R79; 42_commands.md R97, R98). -/
inductive HostEffect (s : State) (q : Regs) : Prop where
  /-- No write is issued. -/
  | unchanged (hq : q = s.regs)
  /-- A write the gate refuses. -/
  | refused (e : Event) (he : e ≠ .done) (hq : q = s.regs.raise e)
  /-- WR_STATUS. -/
  | acknowledged (w : Word) (hi : s.Issues (.wrStatus w)) (hq : q = s.regs.acknowledge w)
  /-- An accepted WR_CTRL. -/
  | ctrlWritten (w : Word) (hb : s.regs.busy = false) (hq : q = s.regs.setCtrl (cmdMode w) (cmdIe w))
  /-- An accepted WR_ROUNDS. -/
  | roundsWritten (w : Word) (hb : s.regs.busy = false) (hq : q = s.regs.setRounds w)
  /-- An accepted WR_KEY. -/
  | keyWritten (n : Fin 4) (w : Word) (hi : s.Issues (.wrKey n w)) (hb : s.regs.busy = false) (hq : q = s.regs.setKey n w)
  /-- An accepted WR_DATA. -/
  | dataWritten (n : Fin 2) (w : Word) (hb : s.regs.busy = false) (hq : q = s.regs.setData n w)
  /-- A START refused because ROUNDS = 0. -/
  | startRefused (m : Mode) (ie : Bool) (hb : s.regs.busy = false) (hq : q = (s.regs.setCtrl m ie).raise .errRounds)
  /-- An accepted START. -/
  | started (m : Mode) (ie : Bool) (hi : ∃ w, s.Issues (.cmdEncrypt w) ∨ s.Issues (.cmdDecrypt w)) (hb : s.regs.busy = false)
      (hr : s.regs.rounds ≠ 0#32) (hq : q = (s.regs.setCtrl m ie).begin m)

/-- A START the busy gate lets through is refused or accepted (42_commands.md R97, R98). -/
theorem HostEffect.of_start {s : State} (m : Mode) (ie : Bool) (hi : ∃ w, s.Issues (.cmdEncrypt w) ∨ s.Issues (.cmdDecrypt w))
    (hb : s.regs.busy = false) : HostEffect s (s.regs.start m ie) := by
  obtain ⟨-, hq⟩ | ⟨hr, hq⟩ := s.regs.start_cases m ie
  · exact .startRefused m ie hb hq
  · exact .started m ie hi hb hr hq

/-- What an issued write leaves (41_register_access.md R78, R79). -/
theorem HostEffect.of_write {s : State} {i : Instr} (hi : s.Issues i) (hw : isRead i = false) :
    HostEffect s (s.regs.gated (instrReg i) (writeUpdate i)) := by
  obtain ⟨hq, hb, hn⟩ | ⟨e, he, hq⟩ := s.regs.gated_cases (instrReg i) (writeUpdate i)
  · rw [hq]
    cases i with
    | wrCtrl w => exact .ctrlWritten w (hb rfl) rfl
    | cmdEncrypt w => exact .of_start .encrypt (cmdIe w) ⟨w, .inl hi⟩ (hb rfl)
    | cmdDecrypt w => exact .of_start .decrypt (cmdIe w) ⟨w, .inr hi⟩ (hb rfl)
    | wrStatus w => exact .acknowledged w hi rfl
    | wrRounds w => exact .roundsWritten w (hb rfl) rfl
    | wrKey n w => exact .keyWritten n w hi (hb rfl) rfl
    | wrData n w => exact .dataWritten n w (hb rfl) rfl
    | wrCount | wrSum | wrRsvd11 | wrRsvd12 => cases hn
    | rdCtrl | rdStatus | rdRounds | rdCount | rdKey | rdData | rdSum | rdRsvd11 | rdRsvd12 => cases hw
  · exact .refused e he hq

/-- What a step does to the registers, by the agent that takes it (10_state.md R12). -/
theorem step_effect {s t : State} (h : step s = .next t) :
    (s.actsNext = .host ∧ HostEffect s t.regs) ∨
    (s.actsNext = .engine ∧ t.regs = s.regs.engineStep) ∨
    (s.actsNext = .reset ∧ t.regs = Regs.reset) := by
  obtain ⟨-, ⟨ha, hq⟩ | ⟨i, hi, hw, hq⟩ | hengine | hreset⟩ := step_cases h
  · exact .inl ⟨ha, .unchanged hq⟩
  · exact .inl ⟨hi.1, hq ▸ .of_write hi hw⟩
  · exact .inr (.inl hengine)
  · exact .inr (.inr hreset)

/-- `q` has the operation of `r`: all that the engine reads, and BUSY; DONE is not set anew (41_register_access.md R81). -/
structure Regs.SameOperation (r q : Regs) : Prop where
  key : q.key = r.key
  data : q.data = r.data
  sum : q.sum = r.sum
  count : q.count = r.count
  rounds : q.rounds = r.rounds
  mode : q.mode = r.mode
  busy : q.busy = r.busy
  done : q.done = true → r.done = true

/-- While BUSY = 1 a host's turn leaves the operation as it is (41_register_access.md R81; 70_reset_and_hazards.md R137). -/
theorem HostEffect.sameOperation {s : State} {q : Regs} (h : HostEffect s q) (hb : s.regs.busy = true) : s.regs.SameOperation q := by
  cases h with
  | unchanged hq => subst hq; exact ⟨rfl, rfl, rfl, rfl, rfl, rfl, rfl, id⟩
  | refused e he hq => subst hq; constructor <;> simp [he]
  | acknowledged w _ hq => subst hq; constructor <;> simp +contextual
  | ctrlWritten _ hidle | roundsWritten _ hidle | keyWritten _ _ _ hidle | dataWritten _ _ hidle | startRefused _ _ hidle
  | started _ _ _ hidle => simp [hidle] at hb

/-- While BUSY = 0 a host's turn leaves BUSY = 0, or it is an accepted START (42_commands.md R97). -/
theorem HostEffect.idle_or_begin {s : State} {q : Regs} (h : HostEffect s q) (hb : s.regs.busy = false) :
    q.busy = false ∨ ∃ m ie, s.regs.rounds ≠ 0#32 ∧ q = (s.regs.setCtrl m ie).begin m := by
  cases h with
  | started m ie _ _ hr hq => exact .inr ⟨m, ie, hr, hq⟩
  | unchanged hq | refused _ _ hq | acknowledged _ _ hq | ctrlWritten _ _ hq | roundsWritten _ _ hq | keyWritten _ _ _ _ hq
  | dataWritten _ _ _ hq | startRefused _ _ _ hq => left; simp [hq, hb]

end Sys2Proof.Machine

/-! An operation in progress: its running sum, its rounds, and what the invariants of 10_state.md R27 say of it. -/

namespace Sys2Proof.Machine

/-! ### The running sum and the block -/

/-- The running sum of an operation after `n` rounds (10_state.md R27). -/
def sumAfter (m : Mode) (rounds n : Word) : Word :=
  match m with
  | .encrypt => Config.delta * (n + 1#32)
  | .decrypt => Config.delta * (rounds - n)

theorem sumAfter_zero (m : Mode) (rounds : Word) : sumAfter m rounds 0#32 = startSum m rounds := by
  cases m <;> simp [sumAfter, startSum]

theorem sumAfter_succ (m : Mode) (rounds n : Word) : sumAfter m rounds (n + 1#32) = nextSum m (sumAfter m rounds n) := by
  cases m with
  | encrypt => simp only [sumAfter, nextSum]; rw [mul_add _ (n + 1#32), BitVec.mul_one]
  | decrypt => simp only [sumAfter, nextSum]; rw [← sub_sub, mul_sub, BitVec.mul_one]

/-- The loop's sum after `n` rounds is the engine's (40_round_transform.md R63, R65). -/
theorem loop_sum (b : Block) (k : KeyWords) (m : Mode) (rounds : Word) (n : Nat) :
    ((loopBody m k)^[n] ⟨b.v0, b.v1, startSum m rounds⟩).sum = sumAfter m rounds (BitVec.ofNat 32 n) := by
  induction n with
  | zero => exact (sumAfter_zero m rounds).symm
  | succ n ih => rw [Function.iterate_succ_apply', loopBody_eq, ih, BitVec.ofNat_add, sumAfter_succ]

/-- One more round of an operation (40_round_transform.md R64, R67). -/
theorem partialBlock_succ (b : Block) (k : KeyWords) (m : Mode) (rounds : Word) (n : Nat) :
    partialBlock b k m rounds (n + 1) =
      roundOf m (partialBlock b k m rounds n) k (sumAfter m rounds (BitVec.ofNat 32 n)) := by
  unfold partialBlock
  rw [Function.iterate_succ_apply', loopBody_eq, loop_sum]
  rfl

/-- After all its rounds the block is the operation's result (40_round_transform.md R72). -/
theorem partialBlock_rounds {rounds : Word} (h : 1 ≤ rounds.toNat) (b : Block) (k : KeyWords) (m : Mode) :
    partialBlock b k m rounds rounds.toNat = transform b k m rounds.toNat := by
  rw [transform_of_pos h, BitVec.ofNat_toNat, BitVec.setWidth_eq, partialBlock]

/-! ### The invariants -/

/-- The invariants say nothing while BUSY = 0 (10_state.md R27). -/
theorem Regs.inv_of_idle {r : Regs} (h : r.busy = false) : r.Inv := by
  simp [Regs.Inv, h]

/-- The invariants of an operation in progress (10_state.md R27). -/
theorem Regs.inv_iff_of_busy {r : Regs} (h : r.busy = true) :
    r.Inv ↔ r.count < r.rounds ∧ r.sum = sumAfter r.mode r.rounds r.count ∧ r.done = false := by
  have hpos : r.count < r.rounds → 1#32 ≤ r.rounds := by bv_omega
  cases hm : r.mode <;> simp [Regs.Inv, h, hm, sumAfter] <;> tauto

/-- Below ROUNDS, COUNT does not wrap. -/
theorem toNat_succ_of_lt {count rounds : Word} (h : count < rounds) : (count + 1#32).toNat = count.toNat + 1 := by
  bv_omega

/-- An accepted START establishes the invariants (42_commands.md R97). -/
theorem Regs.inv_begin (m : Mode) (ie : Bool) {r : Regs} (h : r.rounds ≠ 0#32) : ((r.setCtrl m ie).begin m).Inv := by
  rw [Regs.inv_iff_of_busy rfl]
  refine ⟨?_, (sumAfter_zero m r.rounds).symm, rfl⟩
  change 0#32 < r.rounds
  bv_omega

/-- The invariants depend on the operation alone (10_state.md R27). -/
theorem Regs.SameOperation.inv {r q : Regs} (h : r.SameOperation q) (hb : r.busy = true) (hr : r.Inv) : q.Inv := by
  obtain ⟨hlt, hsum, hdone⟩ := (Regs.inv_iff_of_busy hb).mp hr
  rw [Regs.inv_iff_of_busy (h.busy.trans hb), h.count, h.rounds, h.sum, h.mode]
  exact ⟨hlt, hsum, by simpa [hdone] using h.done⟩

/-- A round keeps the invariants (40_round_transform.md R64, R67, R69). -/
theorem Regs.inv_engineStep {r : Regs} (h : r.Inv) : r.engineStep.Inv := by
  cases hb : r.busy with
  | false => rwa [Regs.engineStep_idle hb]
  | true =>
    obtain ⟨hlt, hsum, hdone⟩ := (Regs.inv_iff_of_busy hb).mp h
    rw [Regs.engineStep_busy hb]
    by_cases hlast : r.count + 1#32 = r.rounds
    · exact Regs.inv_of_idle (by simp [hlast])
    · refine (Regs.inv_iff_of_busy (by simp [hlast])).mpr ⟨?_, ?_, by simp [hdone, hlast]⟩
      · change r.count + 1#32 < r.rounds
        bv_omega
      · rw [hsum]; exact (sumAfter_succ _ _ _).symm

/-- Every step of every agent keeps the invariants (10_state.md R27). -/
theorem step_keeps_inv {s t : State} (hs : s.regs.Inv) (h : step s = .next t) : t.regs.Inv := by
  obtain ⟨-, heff⟩ | ⟨-, hq⟩ | ⟨-, hq⟩ := step_effect h
  · cases hb : s.regs.busy with
    | true => exact (heff.sameOperation hb).inv hb hs
    | false =>
      obtain hidle | ⟨m, ie, hr, hq⟩ := heff.idle_or_begin hb
      · exact Regs.inv_of_idle hidle
      · exact hq ▸ Regs.inv_begin m ie hr
  · exact hq ▸ Regs.inv_engineStep hs
  · exact hq ▸ Regs.inv_of_idle rfl

/-! ### Rounds -/

/-- A round adds one to COUNT, without wrap, and BUSY falls exactly where COUNT meets ROUNDS (40_round_transform.md R69). -/
theorem Regs.engineStep_progress {r : Regs} (hi : r.Inv) (hb : r.busy = true) :
    r.engineStep.count.toNat = r.count.toNat + 1 ∧ r.engineStep.rounds = r.rounds ∧
    r.engineStep.busy = decide (r.engineStep.count ≠ r.engineStep.rounds) := by
  obtain ⟨hlt, -, -⟩ := (Regs.inv_iff_of_busy hb).mp hi
  rw [Regs.engineStep_busy hb]
  exact ⟨toNat_succ_of_lt hlt, rfl, rfl⟩

/-- After fewer rounds than are left the operation still runs, that many rounds further (70_reset_and_hazards.md R137). -/
theorem Regs.engineSteps_running {r : Regs} (hi : r.Inv) (hb : r.busy = true) {n : Nat} (hn : n < r.rounds.toNat - r.count.toNat) :
    (Regs.engineSteps n r).Inv ∧ (Regs.engineSteps n r).busy = true ∧ (Regs.engineSteps n r).rounds = r.rounds ∧
    (Regs.engineSteps n r).count.toNat = r.count.toNat + n := by
  induction n with
  | zero => exact ⟨hi, hb, rfl, rfl⟩
  | succ n ih =>
    obtain ⟨hi', hb', hr', hc'⟩ := ih (by omega)
    obtain ⟨hcount, hrounds, hbusy⟩ := Regs.engineStep_progress hi' hb'
    rw [Regs.engineSteps_succ]
    refine ⟨Regs.inv_engineStep hi', ?_, hrounds.trans hr', by omega⟩
    rw [hbusy, hrounds, hr', decide_eq_true_iff]
    intro heq
    rw [heq] at hcount
    omega

/-- BUSY falls at round ROUNDS - COUNT and not before (70_reset_and_hazards.md R137). -/
theorem Regs.engineSteps_busy {r : Regs} (hi : r.Inv) (hb : r.busy = true) {n : Nat} (hn : n ≤ r.rounds.toNat - r.count.toNat) :
    (Regs.engineSteps n r).busy = decide (n < r.rounds.toNat - r.count.toNat) := by
  obtain hlt | hlast := hn.lt_or_eq
  · obtain ⟨-, hbusy, -, -⟩ := Regs.engineSteps_running hi hb hlt
    simp [hbusy, hlt]
  · obtain ⟨hlt, -, -⟩ := (Regs.inv_iff_of_busy hb).mp hi
    obtain ⟨k, rfl⟩ : ∃ k, n = k + 1 := ⟨n - 1, by bv_omega⟩
    obtain ⟨hi', hb', hr', hc'⟩ := Regs.engineSteps_running hi hb (n := k) (by omega)
    obtain ⟨hcount, hrounds, hbusy⟩ := Regs.engineStep_progress hi' hb'
    have hmeet : (Regs.engineSteps k r).engineStep.count = (Regs.engineSteps k r).engineStep.rounds := by
      apply BitVec.eq_of_toNat_eq
      rw [hcount, hrounds, hr']
      omega
    rw [Regs.engineSteps_succ, hbusy]
    simp [hmeet, hlast]

/-- A round of an operation in progress leaves it in progress or completes it (40_round_transform.md R69, R72). -/
theorem Regs.InProgress.engineStep {b : Block} {k : KeyWords} {m : Mode} {rounds : Word} {r : Regs} (h : r.InProgress b k m rounds) :
    r.engineStep.InProgress b k m rounds ∨ r.engineStep.Completed b k m rounds := by
  obtain ⟨hb, rfl, rfl, rfl, hdata, hinv⟩ := h
  obtain ⟨hlt, hsum, -⟩ := (Regs.inv_iff_of_busy hb).mp hinv
  have hnext : roundOf r.mode r.data r.key r.sum = partialBlock b r.key r.mode r.rounds (r.count + 1#32).toNat := by
    rw [toNat_succ_of_lt hlt, partialBlock_succ, ← hdata, BitVec.ofNat_toNat, BitVec.setWidth_eq, ← hsum]
  have hinv' := Regs.inv_engineStep hinv
  rw [Regs.engineStep_busy hb] at hinv' ⊢
  by_cases hlast : r.count + 1#32 = r.rounds
  · right
    refine ⟨by simp [hlast], by simp [hlast], hlast, ?_⟩
    rw [← partialBlock_rounds (by bv_omega)]
    exact hnext.trans (by rw [hlast])
  · exact .inl ⟨by simp [hlast], rfl, rfl, rfl, hnext, hinv'⟩

/-- The host's turn leaves an operation in progress (10_state.md R17; 41_register_access.md R81). -/
theorem Regs.SameOperation.inProgress {b : Block} {k : KeyWords} {m : Mode} {rounds : Word} {r q : Regs} (h : r.SameOperation q)
    (hr : r.InProgress b k m rounds) : q.InProgress b k m rounds := by
  obtain ⟨hb, hkey, hmode, hrounds, hdata, hinv⟩ := hr
  exact ⟨h.busy.trans hb, h.key.trans hkey, h.mode.trans hmode, h.rounds.trans hrounds,
    by rw [h.data, h.count]; exact hdata, h.inv hb hinv⟩

end Sys2Proof.Machine

/-! The event flags under the updates of the record: only an acknowledgement and an accepted START clear one (10_state.md R22). -/

namespace Sys2Proof.Machine

@[simp] theorem Regs.setRounds_flag (v : Word) (r : Regs) (e : Event) : (r.setRounds v).flag e = r.flag e := by cases e <;> rfl
@[simp] theorem Regs.setKey_flag (n : Fin 4) (v : Word) (r : Regs) (e : Event) : (r.setKey n v).flag e = r.flag e := by cases e <;> rfl
@[simp] theorem Regs.setData_flag (n : Fin 2) (v : Word) (r : Regs) (e : Event) : (r.setData n v).flag e = r.flag e := by cases e <;> rfl
@[simp] theorem Regs.setCtrl_flag (m : Mode) (ie : Bool) (r : Regs) (e : Event) : (r.setCtrl m ie).flag e = r.flag e := by
  cases e <;> rfl

/-- An accepted START clears DONE alone (42_commands.md R97). -/
theorem Regs.begin_flag (m : Mode) (r : Regs) {e : Event} (he : e ≠ .done) : (r.begin m).flag e = r.flag e := by
  cases e with
  | done => exact absurd rfl he
  | errRounds | errBusy | errAccess => rfl

/-- A round clears no flag (40_round_transform.md R69). -/
theorem Regs.engineStep_flag {r : Regs} {e : Event} (h : r.flag e = true) : r.engineStep.flag e = true := by
  cases hb : r.busy with
  | false => rwa [Regs.engineStep_idle hb]
  | true =>
    rw [Regs.engineStep_busy hb]
    cases e with
    | done => change (r.done || _) = true; rw [show r.done = true from h]; rfl
    | errRounds | errBusy | errAccess => exact h

/-- The two ways the host clears a flag (10_state.md R22; 60_exceptions.md R109). -/
theorem HostEffect.flag_cleared {s : State} {q : Regs} {e : Event} (h : HostEffect s q) (hset : s.regs.flag e = true)
    (hclear : q.flag e = false) :
    (∃ w : Word, s.Issues (.wrStatus w) ∧ w.getLsbD e.code = true) ∨
    (e = .done ∧ s.regs.busy = false ∧ s.regs.rounds ≠ 0#32 ∧ ∃ w, s.Issues (.cmdEncrypt w) ∨ s.Issues (.cmdDecrypt w)) := by
  cases h with
  | acknowledged w hi hq => exact .inl ⟨w, hi, by simpa [hq, Regs.acknowledge_flag, hset] using hclear⟩
  | started m ie hi hb hr hq =>
    by_cases he : e = .done
    · exact .inr ⟨he, hb, hr, hi⟩
    · simp [hq, Regs.begin_flag m _ he, hset] at hclear
  | unchanged hq | refused _ _ hq | ctrlWritten _ _ hq | roundsWritten _ _ hq | keyWritten _ _ _ _ hq | dataWritten _ _ _ hq
  | startRefused _ _ _ hq => simp [hq, Regs.raise_flag, hset] at hclear

end Sys2Proof.Machine

/-! The statements of 10_state.md. -/

namespace Sys2Proof.Machine

/-- Settles O17: the three agents' turns keep the invariants, and a run is its steps. -/
theorem everyStepKeepsInvariants : Obligations.EveryStepKeepsInvariants :=
  ⟨fun _ _ => step_keeps_inv,
   fun _ _ _ _ => run_keeps (P := fun s => s.regs.Inv) (fun _ _ => step_keeps_inv) (Regs.inv_of_idle rfl)⟩

/-- Settles O25: the host's turn leaves the operation, the engine's takes one round of it. -/
theorem operationInProgressStaysOrCompletes : Obligations.OperationInProgressStaysOrCompletes := by
  intro b k m rounds s t hs hreset h
  obtain ⟨-, heff⟩ | ⟨-, hq⟩ | ⟨hact, -⟩ := step_effect h
  · exact .inl ((heff.sameOperation hs.1).inProgress hs)
  · exact hq ▸ hs.engineStep
  · exact absurd hact hreset

/-- Settles O28: COUNT moves by one at each round, so the last one is round ROUNDS - COUNT. -/
theorem operationTakesExactlyItsRounds : Obligations.OperationTakesExactlyItsRounds := by
  refine ⟨fun s t _ hb ha h => ?_, fun s t hi hb ha h => ?_, fun r n hi hb hn => ?_⟩
  · obtain ⟨-, heff⟩ | ⟨ha', -⟩ | ⟨ha', -⟩ := step_effect h
    · have hsame := heff.sameOperation hb
      exact ⟨hsame.busy.trans hb, hsame.count, hsame.rounds⟩
    · simp [ha] at ha'
    · simp [ha] at ha'
  · obtain ⟨ha', -⟩ | ⟨-, hq⟩ | ⟨ha', -⟩ := step_effect h
    · simp [ha] at ha'
    · exact hq ▸ Regs.engineStep_progress hi hb
    · simp [ha] at ha'
  · exact Regs.engineSteps_busy hi hb hn

/-- Settles O52: the host clears a flag in two ways, the engine never. -/
theorem flagsAreSticky : Obligations.FlagsAreSticky := by
  intro s t e h hset hclear
  obtain ⟨-, heff⟩ | ⟨-, hq⟩ | ⟨ha, -⟩ := step_effect h
  · exact .inr (heff.flag_cleared hset hclear)
  · rw [hq, Regs.engineStep_flag hset] at hclear
    cases hclear
  · exact .inl ha

/-- Settles O54: of the host's writes only WR_KEY changes KEY, and a round reads it. -/
theorem keyWrittenOnlyByHostOrReset : Obligations.KeyWrittenOnlyByHostOrReset := by
  intro s t h hne
  obtain ⟨-, heff⟩ | ⟨-, hq⟩ | ⟨ha, -⟩ := step_effect h
  · cases heff with
    | keyWritten n w hi hb _ => exact .inr ⟨hb, n, w, hi⟩
    | unchanged hq | refused _ _ hq | acknowledged _ _ hq | ctrlWritten _ _ hq | roundsWritten _ _ hq | dataWritten _ _ _ hq
    | startRefused _ _ _ hq | started _ _ _ _ _ hq => simp [hq] at hne
  · exact absurd (hq ▸ s.regs.engineStep_frame.1) hne
  · exact .inl ha

/-- Settles O55: of the host's transactions only an accepted START changes SUM or COUNT, and the engine changes them only while BUSY = 1. -/
theorem sumAndCountWrittenOnlyByStartAndRound : Obligations.SumAndCountWrittenOnlyByStartAndRound := by
  intro s t h hne
  obtain ⟨-, heff⟩ | ⟨ha, hq⟩ | ⟨ha, -⟩ := step_effect h
  · cases heff with
    | started _ _ hi hb hr _ => exact .inr (.inr ⟨hb, hr, hi⟩)
    | unchanged hq | refused _ _ hq | acknowledged _ _ hq | ctrlWritten _ _ hq | roundsWritten _ _ hq | keyWritten _ _ _ _ hq
    | dataWritten _ _ _ hq | startRefused _ _ _ hq => simp [hq] at hne
  · refine .inr (.inl ⟨ha, ?_⟩)
    by_contra hb
    simp [hq, Regs.engineStep_idle (Bool.eq_false_iff.mpr hb)] at hne
  · exact .inl ha

/-- Settles O11: the turn is the host's, and its oldest operation is the transaction. -/
theorem hostStepRunsDecodedTransaction : Obligations.HostStepRunsDecodedTransaction := by
  refine ⟨fun s t rest later hp hs => ?_, fun s t rest hp hs hb => ?_, fun s t => ?_⟩
  · rw [step, hs]
    exact hostTurn_txn hp
  · have hhost : step s = hostTurn s := by simp [step, hs, unscheduledAgent, hb, turn]
    exact hhost.trans (hostTurn_txn hp)
  · rw [State.withFetchWord, tableWord_toNat]
    rfl

/-- Settles O13: the record of `Regs.reset` is the rule's. -/
theorem resetValues : Obligations.ResetValues := ⟨rfl, rfl⟩

/-- Settles O15: the reset agent's turn is the first, and it overwrites every register. -/
theorem powerUpThenReset : Obligations.PowerUpThenReset := fun _ _ => step_eq_turn _

/-- Settles O16: BUSY = 0 at reset. -/
theorem resetMeetsInvariants : Obligations.ResetMeetsInvariants := Regs.inv_of_idle rfl

end Sys2Proof.Machine

/-! What the statements of 20_memory.md need beside the laws: the byte-addressed window, the packing of bytes as numbers, a register read
after its own write, a write while BUSY = 1, and a run that the engine takes alone. -/

namespace Sys2Proof.Machine

/-! ### The byte-addressed window -/

/-- A register's byte offset as a number (20_memory.md R29). -/
theorem byteOffset_toNat (reg : Reg) : (byteOffset reg).toNat = 4 * (Reg.idx reg).toNat := by
  have hidx := (Reg.idx reg).isLt
  rw [byteOffset, BitVec.toNat_shiftLeft, BitVec.toNat_setWidth, Nat.shiftLeft_eq]
  omega

/-- Bits 5:2 of an offset are its whole words (20_memory.md R29). -/
theorem offsetIdx_toNat (o : BitVec 6) : (offsetIdx o).toNat = o.toNat / 4 := by
  have ho := o.isLt
  rw [offsetIdx, BitVec.extractLsb'_toNat, Nat.shiftRight_eq_div_pow]
  omega

/-- A register's offset selects its index (20_memory.md R29). -/
theorem offsetIdx_byteOffset (reg : Reg) : offsetIdx (byteOffset reg) = Reg.idx reg := by
  apply BitVec.eq_of_toNat_eq
  rw [offsetIdx_toNat, byteOffset_toNat]
  omega

/-- A register's offset is a whole word's (20_memory.md R35). -/
theorem byteOffset_aligned (reg : Reg) : (byteOffset reg).extractLsb' 0 2 = 0#2 := by
  apply BitVec.eq_of_toNat_eq
  rw [BitVec.extractLsb'_toNat, byteOffset_toNat, Nat.shiftRight_zero, BitVec.toNat_ofNat]
  omega

/-! ### Packing -/

/-- A byte put above the bits of a word adds its value there: nothing overlaps (20_memory.md R33). -/
theorem or_byte_toNat {x : Word} {k : Nat} (b : Byte) (hx : x.toNat < 2 ^ k) (hk : k ≤ 24) :
    (x ||| b.setWidth 32 <<< k).toNat = x.toNat + 2 ^ k * b.toNat := by
  have hfits : b.toNat * 2 ^ k < 2 ^ 32 :=
    calc b.toNat * 2 ^ k < 2 ^ 8 * 2 ^ k := Nat.mul_lt_mul_of_pos_right b.isLt (Nat.two_pow_pos k)
      _ = 2 ^ (8 + k) := (Nat.pow_add 2 8 k).symm
      _ ≤ 2 ^ 32 := Nat.pow_le_pow_right (by decide) (by omega)
  have hb : b.toNat < 2 ^ 32 := b.isLt.trans (by decide)
  rw [BitVec.toNat_or, BitVec.toNat_shiftLeft, BitVec.toNat_setWidth, Nat.mod_eq_of_lt hb, Nat.shiftLeft_eq,
    Nat.mod_eq_of_lt hfits, ← Nat.shiftLeft_eq, Nat.or_comm, ← Nat.shiftLeft_add_eq_or_of_lt hx, Nat.shiftLeft_eq]
  ring

/-- Four bytes packed, as a number (20_memory.md R33). -/
theorem le32_toNat (b0 b1 b2 b3 : Byte) :
    (le32 b0 b1 b2 b3).toNat = b0.toNat + 2 ^ 8 * b1.toNat + 2 ^ 16 * b2.toNat + 2 ^ 24 * b3.toNat := by
  have h0 : (b0.setWidth 32).toNat = b0.toNat := by
    rw [BitVec.toNat_setWidth]; exact Nat.mod_eq_of_lt (b0.isLt.trans (by decide))
  have h1 := or_byte_toNat (x := b0.setWidth 32) (k := 8) b1 (by omega) (by decide)
  have h2 := or_byte_toNat (x := b0.setWidth 32 ||| b1.setWidth 32 <<< 8) (k := 16) b2 (by omega) (by decide)
  rw [le32, or_byte_toNat b3 (by omega) (by decide), h2, h1, h0]

/-- Byte j of a word, as a number (20_memory.md R33). -/
theorem byteOf_toNat (w : Word) (j : Nat) : (byteOf w j).toNat = w.toNat / 2 ^ (8 * j) % 2 ^ 8 := by
  rw [byteOf, BitVec.extractLsb'_toNat, Nat.shiftRight_eq_div_pow]

/-- Unpacking gives back the four bytes packed (20_memory.md R33). -/
theorem unpackWord_le32 (b0 b1 b2 b3 : Byte) : unpackWord (le32 b0 b1 b2 b3) = [b0, b1, b2, b3] := by
  have hbyte : ∀ {j : Nat} {b : Byte},
      (le32 b0 b1 b2 b3).toNat / 2 ^ (8 * j) % 2 ^ 8 = b.toNat → byteOf (le32 b0 b1 b2 b3) j = b :=
    fun h => BitVec.eq_of_toNat_eq ((byteOf_toNat _ _).trans h)
  have hw := le32_toNat b0 b1 b2 b3
  rw [unpackWord, hbyte (j := 0) (b := b0) (by omega), hbyte (j := 1) (b := b1) (by omega),
    hbyte (j := 2) (b := b2) (by omega), hbyte (j := 3) (b := b3) (by omega)]

/-- Packing a word's own bytes gives the word (20_memory.md R33). -/
theorem le32_byteOf (w : Word) : le32 (byteOf w 0) (byteOf w 1) (byteOf w 2) (byteOf w 3) = w := by
  apply BitVec.eq_of_toNat_eq
  simp only [le32_toNat, byteOf_toNat]
  omega

/-! ### A register read after its own write -/

/-- The indices of R80 are those of the registers the busy gate guards (41_register_access.md R78, R80). -/
theorem gatedByBusy_ofIdx (idx : BitVec 4) :
    gatedByBusy (Reg.ofIdx idx) = true ↔ idx ∈ [0#4, 2#4, 4#4, 5#4, 6#4, 7#4, 8#4, 9#4] := by
  revert idx; decide

/-- IDX 0 is CTRL and no other index is (10_state.md R14). -/
theorem ofIdx_eq_ctrl_iff (idx : BitVec 4) : Reg.ofIdx idx = .ctrl ↔ idx = 0#4 := by
  revert idx; decide

/-- A START, accepted or refused, leaves the MODE and IE it names (42_commands.md R97, R98). -/
theorem Regs.start_mode_ie (m : Mode) (ie : Bool) (r : Regs) : (r.start m ie).mode = m ∧ (r.start m ie).ie = ie := by
  obtain ⟨-, hq⟩ | ⟨-, hq⟩ := r.start_cases m ie <;> simp [hq]

/-- A CTRL write let through, a START or none, leaves the MODE and IE of its word (42_commands.md R97 to R99). -/
theorem ctrlWrite_mode_ie (w : Word) (r : Regs) :
    (writeUpdate (ctrlWriteInstr w) r).mode = cmdMode w ∧ (writeUpdate (ctrlWriteInstr w) r).ie = cmdIe w := by
  obtain ⟨-, hi⟩ | ⟨-, hm, hi⟩ | ⟨-, hm, hi⟩ := ctrlWriteInstr_cases w
  · rw [hi]; exact ⟨rfl, rfl⟩
  · rw [hi, cmdMode, hm]; exact r.start_mode_ie .encrypt (cmdIe w)
  · rw [hi, cmdMode, hm]; exact r.start_mode_ie .decrypt (cmdIe w)

/-- CTRL as read holds bits 2:1 of the command word whose MODE and IE it has (41_register_access.md R82). -/
theorem Regs.ctrlWord_eq_and {r : Regs} {w : Word} (hm : r.mode = cmdMode w) (hie : r.ie = cmdIe w) : r.ctrlWord = w &&& 6#32 := by
  have hbit : modeBit (cmdMode w) = w.getLsbD 1 := by
    rw [cmdMode, modeOfBit]; cases w.getLsbD 1 <;> rfl
  apply BitVec.eq_of_getLsbD_eq
  intro j hj
  rw [Regs.ctrlWord_bit, hm, hie, hbit, cmdIe, BitVec.getLsbD_and]
  rcases j with _ | _ | _ | j
  · simp
  · simp
  · simp
  · have h6 : (6#32).getLsbD (j + 3) = false := by rw [BitVec.getLsbD_ofNat]; simp [Nat.testBit_succ]
    simp [h6]

/-- A register the busy gate guards, read after a write of it that was let through (41_register_access.md R80). -/
theorem read_writeUpdate {reg : Reg} (h : gatedByBusy reg = true) (w : Word) (r : Regs) :
    (writeUpdate (reg.writeInstr w) r).read reg = if reg = .ctrl then w &&& 6#32 else w := by
  cases reg with
  | ctrl =>
    obtain ⟨hm, hie⟩ := ctrlWrite_mode_ie w r
    exact Regs.ctrlWord_eq_and hm hie
  | rounds => rfl
  | key n => exact (KeyWords.get_set r.key n n w).trans (if_pos rfl)
  | data n => exact (Block.get_set r.data n n w).trans (if_pos rfl)
  | status | count | sum | rsvd11 | rsvd12 => cases h

/-! ### A write while BUSY = 1 -/

/-- While BUSY = 1 a write is refused with an error event, or it is WR_STATUS and acknowledges (41_register_access.md R78, R79). -/
theorem Regs.gated_while_busy {i : Instr} {r : Regs} (hw : isRead i = false) (hb : r.busy = true) :
    (∃ e, r.gated (instrReg i) (writeUpdate i) = r.raise e) ∨
    (∃ w, i = .wrStatus w ∧ r.gated (instrReg i) (writeUpdate i) = r.acknowledge w) := by
  by_cases hs : instrReg i = .status
  · cases i with
    | wrStatus w => exact .inr ⟨w, rfl, rfl⟩
    | rdStatus => cases hw
    | _ => cases hs
  · obtain ⟨e, -, hq⟩ := Regs.gated_busy (writeUpdate i) hb hs
    exact .inl ⟨e, hq⟩

/-! ### The engine alone -/

/-- The engine's turn where nothing is scheduled and BUSY = 1 (log 2). -/
theorem step_unscheduled_busy {s : State} (hs : s.sched = []) (hb : s.regs.busy = true) :
    step s = .next { s with regs := s.regs.engineStep } := by
  simp [step, hs, unscheduledAgent, hb, turn, engineTurn]

/-- While BUSY = 1 at each of them, the steps of a run where nothing is scheduled are the engine's (log 2). -/
theorem run_unscheduled_busy {n : Nat} {s : State} (hs : s.sched = []) (hb : ∀ k < n, (Regs.engineSteps k s.regs).busy = true) :
    run n s = .next { s with regs := Regs.engineSteps n s.regs } := by
  induction n generalizing s with
  | zero => rfl
  | succ n ih =>
    rw [run_succ (step_unscheduled_busy hs (hb 0 n.succ_pos))]
    exact ih hs fun k hk => hb (k + 1) (by omega)

/-- The round that lets BUSY fall sets DONE, with COUNT = ROUNDS (40_round_transform.md R69). -/
theorem Regs.engineStep_completes {r : Regs} (hb : r.busy = true) (hb' : r.engineStep.busy = false) :
    r.engineStep.done = true ∧ r.engineStep.count = r.rounds := by
  rw [Regs.engineStep_busy hb] at hb' ⊢
  have hlast : r.count + 1#32 = r.rounds := by simpa using hb'
  exact ⟨by simp [hlast], hlast⟩

/-- ROUNDS - COUNT rounds complete an operation (40_round_transform.md R69; 70_reset_and_hazards.md R137). -/
theorem Regs.engineSteps_complete {r : Regs} (hi : r.Inv) (hb : r.busy = true) :
    (Regs.engineSteps (r.rounds.toNat - r.count.toNat) r).busy = false ∧
    (Regs.engineSteps (r.rounds.toNat - r.count.toNat) r).done = true ∧
    (Regs.engineSteps (r.rounds.toNat - r.count.toNat) r).count = r.rounds := by
  have hfalls := Regs.engineSteps_busy hi hb le_rfl
  obtain ⟨hlt, -, -⟩ := (Regs.inv_iff_of_busy hb).mp hi
  obtain ⟨k, hk⟩ : ∃ k, r.rounds.toNat - r.count.toNat = k + 1 := ⟨r.rounds.toNat - r.count.toNat - 1, by bv_omega⟩
  obtain ⟨-, hb', hr', -⟩ := Regs.engineSteps_running hi hb (n := k) (by omega)
  rw [decide_eq_false (lt_irrefl _), hk, Regs.engineSteps_succ] at hfalls
  rw [hk, Regs.engineSteps_succ, ← hr']
  exact ⟨hfalls, Regs.engineStep_completes hb' hfalls⟩

end Sys2Proof.Machine

/-! The statements of 20_memory.md. -/

namespace Sys2Proof.Machine

/-- Settles O29: every step of the run is the engine's, and the last one is the completing round. -/
theorem unscheduledOperationCompletes : Obligations.UnscheduledOperationCompletes := by
  intro s hi hb hs
  obtain ⟨hbusy, hdone, hcount⟩ := Regs.engineSteps_complete hi hb
  refine ⟨_, run_unscheduled_busy hs fun k hk => ?_, hbusy, hdone, hcount, rfl⟩
  rw [Regs.engineSteps_busy hi hb hk.le, decide_eq_true hk]

/-- Settles O42: BUSY = 0 lets the write through, and its register holds the word, for CTRL the two bits that are stored. -/
theorem acceptedWriteIsReadBack : Obligations.AcceptedWriteIsReadBack := by
  intro idx w s hb hidx
  have hgate := (gatedByBusy_ofIdx idx).mpr hidx
  rw [decode_mk, decode_mk]
  refine ⟨_, _, _, exec_writeInstr _ w s, exec_readInstr _ _, rfl, ?_⟩
  rw [State.writing_regs, Regs.gated_of_gatedByBusy hgate, hb, if_neg Bool.false_ne_true, read_writeUpdate hgate]
  simp only [ofIdx_eq_ctrl_iff]

/-- Settles O53: a read changes no register, and a write is refused or acknowledges, so it changes flags alone. -/
theorem hostCannotDisturbOperation : Obligations.HostCannotDisturbOperation := by
  intro i s hb
  refine ⟨_, exec_eq i s, ?_⟩
  cases hw : isRead i with
  | true => exact ⟨rfl, rfl, rfl⟩
  | false =>
    refine ⟨rfl, rfl, ?_⟩
    rw [if_neg Bool.false_ne_true, State.writing_regs]
    obtain ⟨e, hq⟩ | ⟨w, -, hq⟩ := Regs.gated_while_busy hw hb
    · rw [hq]; cases e <;> rfl
    · rw [hq]; rfl

/-- Settles O57: the packed word's number determines its bytes, and the words of a block and of a key are packed from their own four. -/
theorem packingIsLittleEndian : Obligations.PackingIsLittleEndian :=
  ⟨fun b0 b1 b2 b3 => ⟨le32_toNat b0 b1 b2 b3, unpackWord_le32 b0 b1 b2 b3⟩, le32_byteOf, fun _ _ _ _ _ _ _ _ => rfl, fun _ => rfl⟩

/-- Settles O59: an offset and its index determine each other as numbers, and a register's offset is aligned. -/
theorem windowOffsetsSelectRegisters : Obligations.WindowOffsetsSelectRegisters := by
  refine ⟨fun reg => ⟨byteOffset_toNat reg, (byteOffset reg).isLt, ?_⟩, offsetIdx_toNat, fun we reg w => ?_⟩
  · rw [offsetIdx_byteOffset, Reg.ofIdx_idx]
  · rw [adapterAccess, if_pos ⟨byteOffset_aligned reg, rfl⟩, offsetIdx_byteOffset]

end Sys2Proof.Machine

/-! What the statements of 30_encoding.md need beside the laws: the encoder on the rows of a register, the opcode map on the bits that
choose a row, the command words of the disassembler, and the assembler's reading of the text it prints. -/

namespace Sys2Proof.Machine

/-! ### Encoder and decoder -/

/-- The canonical word of a read row: WDATA = 0 (30_encoding.md R47). -/
@[simp] theorem encode_readInstr (reg : Reg) : encode reg.readInstr = TxnWord.mk false (Reg.idx reg) 0#32 := by
  cases reg <;> rfl

/-- The word of a write row: the operand is WDATA (30_encoding.md R45). -/
@[simp] theorem encode_writeInstr (reg : Reg) (w : Word) : encode (reg.writeInstr w) = TxnWord.mk true (Reg.idx reg) w := by
  cases reg with
  | ctrl => obtain ⟨-, hi⟩ | ⟨-, -, hi⟩ | ⟨-, -, hi⟩ := ctrlWriteInstr_cases w <;> exact congrArg encode hi
  | _ => rfl

/-- A term of one of the three CTRL write rows is well-formed exactly when its WDATA selects that row (30_encoding.md R51). -/
theorem wellFormed_ctrlWrite_iff {i : Instr} {w : Word} (hi : i ∈ [.wrCtrl w, .cmdEncrypt w, .cmdDecrypt w]) :
    i.wellFormed = true ↔ ctrlWriteInstr w = i := by
  simp only [List.mem_cons, List.not_mem_nil, or_false] at hi
  obtain rfl | rfl | rfl := hi <;>
    simp only [Instr.wellFormed, Word.startIs, Word.modeIs, ctrlWriteInstr] <;>
    cases w.getLsbD 0 <;> cases w.getLsbD 1 <;> simp

/-- A well-formed instruction is the read row of its register or the write row of its register and operand (30_encoding.md R51). -/
theorem eq_readInstr_or_writeInstr {i : Instr} (h : i.wellFormed = true) :
    i = (instrReg i).readInstr ∨ ∃ w, i = (instrReg i).writeInstr w := by
  cases i with
  | wrCtrl w | cmdEncrypt w | cmdDecrypt w => exact .inr ⟨w, ((wellFormed_ctrlWrite_iff (by simp)).mp h).symm⟩
  | rdCtrl | rdStatus | rdRounds | rdCount | rdKey | rdData | rdSum | rdRsvd11 | rdRsvd12 => exact .inl rfl
  | wrStatus w | wrRounds w | wrCount w | wrKey _ w | wrData _ w | wrSum w | wrRsvd11 w | wrRsvd12 _ w => exact .inr ⟨w, rfl⟩

/-- The row of a CTRL write is well-formed (30_encoding.md R51). -/
theorem ctrlWriteInstr_wellFormed (w : Word) : (ctrlWriteInstr w).wellFormed = true := by
  obtain ⟨-, hi⟩ | ⟨-, -, hi⟩ | ⟨-, -, hi⟩ := ctrlWriteInstr_cases w <;>
    exact (wellFormed_ctrlWrite_iff (w := w) (by simp [hi])).mpr rfl

/-- Every instruction the decoder reads is well-formed (30_encoding.md R51, R58). -/
theorem decode_wellFormed (t : TxnWord) : (decode t).wellFormed = true := by
  obtain ⟨-, hd⟩ | ⟨-, hd⟩ := decode_cases t
  · rw [hd]; cases Reg.ofIdx (TxnWord.idx t) <;> rfl
  · rw [hd]
    cases Reg.ofIdx (TxnWord.idx t) with
    | ctrl => exact ctrlWriteInstr_wellFormed _
    | _ => rfl

/-! ### The transaction word as a number -/

/-- The word of three fields, as a number (30_encoding.md R45). -/
theorem mk_toNat (we : Bool) (idx : BitVec 4) (w : Word) :
    (TxnWord.mk we idx w).toNat = (if we then 0x1000000000 else 0) + idx.toNat * 0x100000000 + w.toNat := by
  have happ : (TxnWord.mk we idx w).toNat = ((BitVec.ofBool we).toNat <<< 4 ||| idx.toNat) <<< 32 ||| w.toNat := by
    rw [← BitVec.toNat_append, ← BitVec.toNat_append]; rfl
  have hwe : (BitVec.ofBool we).toNat = if we then 1 else 0 := by cases we <;> rfl
  rw [happ, ← Nat.shiftLeft_add_eq_or_of_lt idx.isLt, ← Nat.shiftLeft_add_eq_or_of_lt w.isLt, Nat.shiftLeft_eq, Nat.shiftLeft_eq, hwe]
  split <;> omega

/-! ### The opcode map -/

/-- The bits of a word that some row of the opcode map looks at: WE, IDX and bits 1:0 of WDATA (30_encoding.md R51). -/
def rowBits (t : TxnWord) : TxnWord := t &&& 0x1F00000003#37

/-- No row looks at another bit. -/
theorem selects_rowBits {row : OpcodeRow} (h : row ∈ opcodeTable) (t : TxnWord) : row.selects (rowBits t) = row.selects t := by
  have hmask : ∀ row ∈ opcodeTable, 0x1F00000003#37 &&& row.mask = row.mask := by decide
  rw [OpcodeRow.selects, rowBits, BitVec.and_assoc, hmask row h, OpcodeRow.selects]

/-- A word selects the rows its row bits select. -/
theorem filter_selects_rowBits (t : TxnWord) :
    opcodeTable.filter (fun row => row.selects (rowBits t)) = opcodeTable.filter (fun row => row.selects t) :=
  List.filter_congr fun _ hrow => selects_rowBits hrow t

/-- The row bits of a word given by its fields. -/
theorem rowBits_mk (we : Bool) (idx : BitVec 4) (w : Word) : rowBits (TxnWord.mk we idx w) = TxnWord.mk we idx (w &&& 3#32) := by
  rw [rowBits, show 0x1F00000003#37 = TxnWord.mk true 15#4 3#32 from rfl, Laws.EncodeRow.mk_and, Bool.and_true]
  exact congrArg (TxnWord.mk we · _) BitVec.and_allOnes

/-- The decoder looks at no bit but the row bits to choose a row. -/
theorem row_decode_rowBits (t : TxnWord) : (decode (rowBits t)).row = (decode t).row := by
  have hctrl (w : Word) : (ctrlWriteInstr (w &&& 3#32)).row = (ctrlWriteInstr w).row := by
    simp only [ctrlWriteInstr, BitVec.getLsbD_and]
    cases w.getLsbD 0 <;> cases w.getLsbD 1 <;> rfl
  rw [← TxnWord.mk_fields t, rowBits_mk, decode_mk, decode_mk]
  cases TxnWord.we t with
  | false => rfl
  | true =>
    cases Reg.ofIdx (TxnWord.idx t) with
    | ctrl => exact hctrl _
    | _ => rfl

/-- The map on all 2 * 16 * 4 values of the row bits: the one row selected is the decoder's (30_encoding.md R51). -/
theorem filter_selects_mk (we : Bool) (idx : BitVec 4) (w : Word) :
    opcodeTable.filter (fun row => row.selects (TxnWord.mk we idx (w &&& 3#32))) =
      [opcodeTable.get (decode (TxnWord.mk we idx (w &&& 3#32))).row] := by
  rw [Laws.EncodeRow.and_three]
  cases w.getLsbD 0 <;> cases w.getLsbD 1 <;> cases we <;> revert idx <;> decide

/-! ### The disassembler -/

/-- Each bit of the command word of ENC and DEC (30_encoding.md R49). -/
theorem startWord_bit (mode ie : Bool) (j : Nat) :
    (startWord mode ie).getLsbD j = if j = 0 then true else if j = 1 then mode else if j = 2 then ie else false := by
  have happ : (startWord mode ie).getLsbD j =
      (0#29 ++ BitVec.ofBool ie ++ BitVec.ofBool mode ++ 1#1 : BitVec (29 + 1 + 1 + 1)).getLsbD j := rfl
  rw [happ, BitVec.getLsbD_append, BitVec.getLsbD_append, BitVec.getLsbD_append]
  rcases j with _ | _ | _ | j <;> simp

/-- Bits 31:3 are 0 in the words below 8 (30_encoding.md R56). -/
theorem reservedBits_eq_zero_iff (w : Word) : reservedBits w = 0#29 ↔ w < 8#32 := by
  have hw := w.isLt
  rw [← BitVec.toNat_inj, reservedBits, BitVec.extractLsb'_toNat, Nat.shiftRight_eq_div_pow, BitVec.lt_def, BitVec.toNat_ofNat,
    BitVec.toNat_ofNat]
  omega

/-- A START word with no reserved bit set is the command word of its MODE and IE (30_encoding.md R56). -/
theorem startWord_of_reservedBits {w : Word} (hr : reservedBits w = 0#29) (h0 : w.getLsbD 0 = true) :
    startWord (w.getLsbD 1) (w.getLsbD 2) = w := by
  apply BitVec.eq_of_getLsbD_eq
  intro j hj
  rw [startWord_bit]
  rcases j with _ | _ | _ | j
  · simp [h0]
  · simp
  · simp
  · have hbit : (reservedBits w).getLsbD j = w.getLsbD (3 + j) := by
      rw [reservedBits, BitVec.getLsbD_extractLsb', decide_eq_true (show j < 29 by omega), Bool.true_and]
    rw [hr, Nat.add_comm 3 j] at hbit
    simpa using hbit

/-- The line printed for a CTRL write: the ENC or DEC form for a START below 8 (30_encoding.md R56). -/
theorem disassemble_ctrlWriteInstr (w : Word) :
    disassemble (ctrlWriteInstr w) =
      if w.getLsbD 0 = true ∧ reservedBits w = 0#29 then
        if w.getLsbD 1 then .dec (w.getLsbD 2) else .enc (w.getLsbD 2)
      else .wr .ctrl w := by
  obtain ⟨h0, hi⟩ | ⟨h0, h1, hi⟩ | ⟨h0, h1, hi⟩ := ctrlWriteInstr_cases w
  · rw [hi, h0]; rfl
  · rw [hi, h0, h1]; simp [disassemble]
  · rw [hi, h0, h1]; simp [disassemble]

/-- The line printed for a CTRL write encodes to that write (30_encoding.md R56). -/
theorem word_disassemble_ctrlWriteInstr (w : Word) : (disassemble (ctrlWriteInstr w)).word = TxnWord.mk true 0#4 w := by
  rw [disassemble_ctrlWriteInstr]
  split
  · next h =>
    obtain ⟨h0, hr⟩ := h
    have hw := startWord_of_reservedBits hr h0
    split
    · next h1 => rw [AsmLine.word, ← h1, hw]
    · next h1 => rw [AsmLine.word, ← Bool.eq_false_iff.mpr h1, hw]
  · rfl

/-- The line printed for a well-formed instruction encodes to its canonical word (30_encoding.md R56). -/
theorem word_disassemble {i : Instr} (h : i.wellFormed = true) : (disassemble i).word = encode i := by
  obtain hi | ⟨w, hi⟩ := eq_readInstr_or_writeInstr h
  · rw [hi]; cases instrReg i <;> rfl
  · rw [hi, encode_writeInstr]
    cases instrReg i with
    | ctrl => exact word_disassemble_ctrlWriteInstr w
    | _ => rfl

/-! ### Cutting a printed line into words -/

/-- A character that neither ends a word nor starts a comment, a string or a gap (log 8). -/
def isWordChar (c : Char) : Bool := !(c == ';' || c == quoteChar || c == ',' || isSpace c)

/-- What a word character is not. -/
theorem isWordChar_iff {c : Char} :
    isWordChar c = true ↔ (c == ';') = false ∧ (c == quoteChar) = false ∧ (c == ',') = false ∧ isSpace c = false := by
  simp [isWordChar, and_assoc]

/-- The reader takes a word character into the word it is in (log 8). -/
theorem lex_word_cons {c : Char} (h : isWordChar c = true) (seen rest : List Char) :
    lex (.word seen) (c :: rest) = lex (.word (c :: seen)) rest := by
  obtain ⟨hsemi, hquote, hcomma, hspace⟩ := isWordChar_iff.mp h
  simp [lex, hsemi, hquote, hcomma, hspace]

/-- A word character starts a word (log 8). -/
theorem lex_gap_cons {c : Char} (h : isWordChar c = true) (rest : List Char) :
    lex .gap (c :: rest) = lex (.word [c]) rest := by
  obtain ⟨hsemi, hquote, hcomma, hspace⟩ := isWordChar_iff.mp h
  simp [lex, hsemi, hquote, hcomma, hspace]

/-- The reader takes word characters into the word it is in, up to the next other character (log 8). -/
theorem lex_word_append (seen rest : List Char) {cs : List Char} (h : cs.all isWordChar = true) :
    lex (.word seen) (cs ++ rest) = lex (.word (cs.reverse ++ seen)) rest := by
  induction cs generalizing seen with
  | nil => rfl
  | cons c cs ih =>
    obtain ⟨hc, hcs⟩ : isWordChar c = true ∧ cs.all isWordChar = true := by simpa using h
    rw [List.cons_append, lex_word_cons hc, ih (c :: seen) hcs]
    simp

/-- The text of one whole word: some word characters. -/
abbrev IsWordText (cs : List Char) : Prop := cs ≠ [] ∧ cs.all isWordChar = true

/-- After a gap the reader reads a whole word (log 8). -/
theorem lex_gap_append (rest : List Char) {cs : List Char} (h : IsWordText cs) :
    lex .gap (cs ++ rest) = lex (.word cs.reverse) rest := by
  obtain ⟨hne, hall⟩ := h
  cases cs with
  | nil => exact absurd rfl hne
  | cons c cs =>
    obtain ⟨hc, hcs⟩ : isWordChar c = true ∧ cs.all isWordChar = true := by simpa using hall
    rw [List.cons_append, lex_gap_cons hc, lex_word_append _ _ hcs, List.reverse_cons]

/-- The last word of a line. -/
theorem lex_word_end {cs : List Char} (h : IsWordText cs) : lex .gap cs = some [.word cs] := by
  have hlex := lex_gap_append [] h
  rw [List.append_nil] at hlex
  simp [hlex, lex, lexFlush]

/-- A word with a space after it. -/
theorem lex_word_space (rest : List Char) {cs : List Char} (h : IsWordText cs) :
    lex .gap (cs ++ ' ' :: rest) = (lex .gap rest).map (fun ts => .word cs :: ts) := by
  rw [lex_gap_append _ h]
  simp [lex, quoteChar, isSpace]

/-- A word with a comma and a space after it. -/
theorem lex_word_comma (rest : List Char) {cs : List Char} (h : IsWordText cs) :
    lex .gap (cs ++ ',' :: ' ' :: rest) = (lex .gap rest).map (fun ts => .word cs :: .comma :: ts) := by
  rw [lex_gap_append _ h]
  simp [lex, quoteChar, isSpace]

/-! ### Names and numbers as printed -/

/-- A register's name is one word, and the assembler finds the register by it (30_encoding.md R56). -/
theorem regName_spec (reg : Reg) : IsWordText (regName reg).toList ∧ parseReg (regName reg).toList = some reg := by
  cases reg with
  | key n => revert n; decide
  | data n => revert n; decide
  | rsvd12 n => revert n; decide
  | _ => decide

/-- A printed digit is a word character. -/
theorem isWordChar_hexDigit (d : BitVec 4) : isWordChar (hexDigit d) = true := by
  revert d; decide

/-- A printed digit is read back as its value. -/
theorem digitValue_hexDigit (d : BitVec 4) : digitValue 16 (hexDigit d) = some d.toNat := by
  revert d; decide

/-- A printed immediate is one word. -/
theorem isWordText_hexWord (w : Word) : IsWordText (hexWord w) := by
  refine ⟨List.cons_ne_nil _ _, ?_⟩
  have h0 : isWordChar '0' = true := by decide
  have hx : isWordChar 'x' = true := by decide
  simp [hexWord, isWordChar_hexDigit, h0, hx]

/-- The reader of numbers takes a printed digit below those it has read. -/
theorem digitsValue_hexDigit_cons (acc : Nat) (d : BitVec 4) (cs : List Char) :
    digitsValue 16 acc (hexDigit d :: cs) = digitsValue 16 (acc * 16 + d.toNat) cs := by
  rw [digitsValue, digitValue_hexDigit]

/-- The eight printed digits of a word spell its value. -/
theorem digitsValue_hexWord (w : Word) : digitsValue 16 0 ((hexWord w).drop 2) = some w.toNat := by
  have hw := w.isLt
  simp only [hexWord, List.drop, digitsValue_hexDigit_cons]
  simp only [digitsValue, BitVec.extractLsb'_toNat, Nat.shiftRight_eq_div_pow]
  exact congrArg some (by omega)

/-- A hexadecimal immediate in range (30_encoding.md R56). -/
theorem parseImm_hex {d : Char} {ds : List Char} {v : Nat} (h : digitsValue 16 0 (d :: ds) = some v) (hv : v < 2 ^ 32) :
    parseImm ('0' :: 'x' :: d :: ds) = some (BitVec.ofNat 32 v) := by
  simp only [parseImm, h, if_pos hv]

/-- A printed immediate is read back (30_encoding.md R56). -/
theorem parseImm_hexWord (w : Word) : parseImm (hexWord w) = some w :=
  (parseImm_hex (digitsValue_hexWord w) w.isLt).trans (by rw [BitVec.ofNat_toNat, BitVec.setWidth_eq])

/-! ### Mnemonics and operands -/

/-- RD with one word after it (30_encoding.md R56). -/
theorem parseMnemonic_rd (n : Nat) (r : List Char) :
    parseMnemonic n "RD".toList [.word r] = (regOr n r).map (fun reg => [(AsmLine.rd reg).op]) := rfl

/-- WR with two words after it (30_encoding.md R56). -/
theorem parseMnemonic_wr (n : Nat) (a b : List Char) :
    parseMnemonic n "WR".toList [.word a, .comma, .word b] =
      (regOr n a).bind (fun reg => (immOr n b).map (fun imm => [(AsmLine.wr reg imm).op])) := rfl

/-- A register's own name is accepted (30_encoding.md R56). -/
theorem regOr_regName (n : Nat) (reg : Reg) : regOr n (regName reg).toList = .ok reg := by
  rw [regOr, (regName_spec reg).2]

/-- Any other name is refused (30_encoding.md R58). -/
theorem regOr_unknown {r : List Char} (h : ∀ reg, (regName reg).toList ≠ r) (n : Nat) : regOr n r = .error (.register n r) := by
  have hnone : parseReg r = none := by simpa [parseReg] using fun reg _ => h reg
  rw [regOr, hnone]

/-- A mnemonic of none of the three lists is refused whatever follows it (30_encoding.md R58). -/
theorem parseMnemonic_unknown {m : List Char} (hp : ∀ e ∈ plainMnemonics, e.1.toList ≠ m)
    (hn : ∀ k ∈ numericMnemonics, k.toList ≠ m) (hq : ∀ k ∈ quotedMnemonics, k.toList ≠ m) (n : Nat) (ts : List Token) :
    parseMnemonic n m ts = .error (.mnemonic n m) := by
  have hplain : plainMnemonics.find? (fun e => e.1.toList == m) = none :=
    List.find?_eq_none.mpr fun e he => by simpa using hp e he
  have hnumeric : numericMnemonics.any (fun k => k.toList == m) = false :=
    List.any_eq_false.mpr fun k hk => by simpa using hn k hk
  have hquoted : quotedMnemonics.any (fun k => k.toList == m) = false :=
    List.any_eq_false.mpr fun k hk => by simpa using hq k hk
  simp [parseMnemonic, hplain, hnumeric, hquoted]

/-! ### Printed lines -/

/-- The text of an RD line, by its words. -/
theorem AsmLine.text_rd (reg : Reg) : (AsmLine.rd reg).text = "RD".toList ++ ' ' :: (regName reg).toList := rfl

/-- The text of a WR line, by its words. -/
theorem AsmLine.text_wr (reg : Reg) (w : Word) :
    (AsmLine.wr reg w).text = "WR".toList ++ ' ' :: ((regName reg).toList ++ ',' :: ' ' :: hexWord w) := rfl

/-- A printed RD line is read back (30_encoding.md R56). -/
theorem parseLine_rd (n : Nat) (reg : Reg) : parseLine n (AsmLine.rd reg).text = .ok [(AsmLine.rd reg).op] := by
  have hrd : IsWordText "RD".toList := by decide
  have hlex : lex .gap (AsmLine.rd reg).text = some [.word "RD".toList, .word (regName reg).toList] := by
    rw [AsmLine.text_rd, lex_word_space _ hrd, lex_word_end (regName_spec reg).1]; rfl
  rw [parseLine, hlex]
  exact (parseMnemonic_rd _ _).trans (by rw [regOr_regName]; rfl)

/-- A printed WR line is read back (30_encoding.md R56). -/
theorem parseLine_wr (n : Nat) (reg : Reg) (w : Word) : parseLine n (AsmLine.wr reg w).text = .ok [(AsmLine.wr reg w).op] := by
  have hwr : IsWordText "WR".toList := by decide
  have hlex : lex .gap (AsmLine.wr reg w).text =
      some [.word "WR".toList, .word (regName reg).toList, .comma, .word (hexWord w)] := by
    rw [AsmLine.text_wr, lex_word_space _ hwr, lex_word_comma _ (regName_spec reg).1, lex_word_end (isWordText_hexWord w)]; rfl
  rw [parseLine, hlex]
  exact (parseMnemonic_wr _ _ _).trans (by rw [regOr_regName, immOr, parseImm_hexWord]; rfl)

/-! ### The polling loop -/

/-- The host's turn with a WAIT to issue: one RD_STATUS, and the loop goes on or ends (30_encoding.md R57). -/
theorem hostTurn_wait {s : State} {rest : List HostOp} (h : s.program = .wait :: rest) :
    hostTurn s = .next (afterPoll rest (s.reading .status)) := by
  unfold hostTurn
  rw [h]
  rfl

end Sys2Proof.Machine

/-! The statements of 30_encoding.md. -/

namespace Sys2Proof.Machine

/-- Settles O5: a well-formed instruction is a row of a register, whose word has that register's index and the row's own operand. -/
theorem encodedInstructionDecodesBack : Obligations.EncodedInstructionDecodesBack := by
  intro i h
  obtain hi | ⟨w, hi⟩ := eq_readInstr_or_writeInstr h
  · rw [hi, encode_readInstr, decode_mk, Reg.ofIdx_idx]
  · rw [hi, encode_writeInstr, decode_mk, Reg.ofIdx_idx]

/-- Settles O2: the word is its fields side by side. -/
theorem transactionWordHasThreeFields : Obligations.TransactionWordHasThreeFields :=
  ⟨fun we idx w => ⟨mk_toNat we idx w, TxnWord.we_mk we idx w, TxnWord.idx_mk we idx w, TxnWord.wdata_mk we idx w⟩,
    TxnWord.mk_fields⟩

/-- Settles O3: both the map and the decoder choose the row by the row bits alone, and on those they agree. -/
theorem everyWordSelectsItsOneRow : Obligations.EveryWordSelectsItsOneRow := by
  intro t
  rw [← filter_selects_rowBits, ← row_decode_rowBits, ← TxnWord.mk_fields t, rowBits_mk]
  exact filter_selects_mk _ _ _

/-- Settles O6: the decoded row's word has the word's own index, and for a write its own WDATA. -/
theorem decodedWordEncodesBack : Obligations.DecodedWordEncodesBack := by
  intro t
  refine ⟨decode_wellFormed t, ?_⟩
  obtain ⟨hwe, hd⟩ | ⟨hwe, hd⟩ := decode_cases t
  · simp [hd, hwe]
  · rw [hd, encode_writeInstr, Reg.idx_ofIdx, if_pos hwe, ← hwe, TxnWord.mk_fields]

/-- Settles O7: a word below 8 is the command word of its MODE and IE, and every other line spells its operand out. -/
theorem disassemblyAssemblesBack : Obligations.DisassemblyAssemblesBack := by
  refine ⟨fun t => word_disassemble (decode_wellFormed t), fun w h0 => ?_, rfl, rfl, rfl, rfl⟩
  rw [show decode (TxnWord.mk true 0#4 w) = ctrlWriteInstr w from decode_mk true 0#4 w, ← reservedBits_eq_zero_iff,
    disassemble_ctrlWriteInstr, h0]
  by_cases hr : reservedBits w = 0#29 <;> cases w.getLsbD 1 <;> simp [hr]

/-- Settles O8: a printed line is cut into the words it was printed from, and each word is read back. -/
theorem assemblerReadsPrintedLine : Obligations.AssemblerReadsPrintedLine := by
  intro n l
  cases l with
  | rd reg => exact parseLine_rd n reg
  | wr reg imm => exact parseLine_wr n reg imm
  | enc ie => cases ie <;> rfl
  | dec ie => cases ie <;> rfl

/-- Settles O9: an unknown mnemonic is in none of the lists, and RD and WR refuse the first bad operand. -/
theorem assemblerRefusesByNameAndLine : Obligations.AssemblerRefusesByNameAndLine := by
  refine ⟨fun n m ts hp hn hq => parseMnemonic_unknown hp hn hq n ts, fun n r hr => ⟨?_, fun b => ?_⟩, fun n reg b hb => ?_⟩
  · rw [parseMnemonic_rd, regOr_unknown hr]; rfl
  · rw [parseMnemonic_wr, regOr_unknown hr]; rfl
  · rw [parseMnemonic_wr, regOr_regName, immOr, hb]; rfl

/-- Settles O1: the twenty words, decoded. -/
theorem referenceWordsDecode : Obligations.ReferenceWordsDecode := by
  unfold Obligations.ReferenceWordsDecode
  decide

/-- Settles O4: a read's row depends on its index alone, and its canonical word has WDATA = 0. -/
theorem readIgnoresWdata : Obligations.ReadIgnoresWdata := by
  intro idx w
  simp [decode_mk]

/-- Settles O10: the expansions are the encoder's words, and WAIT's turn is one RD_STATUS whose bit 0 decides. -/
theorem pseudoInstructionsExpand : Obligations.PseudoInstructionsExpand := by
  refine ⟨fun _ _ _ _ => rfl, fun _ => rfl, fun _ _ => rfl, fun _ => rfl, rfl, rfl, rfl, rfl, fun s later rest hs hp => ?_⟩
  have hturn : step s = .next (afterPoll rest (State.reading .status { s with sched := later })) := by
    rw [step, hs]
    exact hostTurn_wait hp
  rw [hturn, afterPoll, State.reading_rdata, pollEnds]
  cases (s.regs.read .status).getLsbD 0
  · simp [State.reading]
  · simp [State.reading, hp]

/-- Settles O12: `exec` answers by its own equation, and a step is one of the three agents' turns. -/
theorem machineNeverStops : Obligations.MachineNeverStops := ⟨fun i s => ⟨_, exec_eq i s⟩, step_answers⟩

end Sys2Proof.Machine

/-! What the statements of 40_round_transform.md need beside the laws: states that differ only in what the block keeps secret, the engine's
turn, an operation from its START to its end, and the decrypt loop as the inverse of the encrypt loop. -/

namespace Sys2Proof.Machine

/-! ### Registers and states that differ only in KEY, DATA and the last response -/

/-- `q` differs from `r` at most in KEY and DATA (40_round_transform.md R74). -/
def Regs.PublicEq (r q : Regs) : Prop := { q with key := r.key, data := r.data } = r

/-- Any KEY and DATA put in place of those of `r`. -/
theorem Regs.publicEq_replace (r : Regs) (k : KeyWords) (b : Block) : r.PublicEq { r with key := k, data := b } := rfl

/-- Registers that differ at most in KEY and DATA are got by replacing these two. -/
theorem Regs.PublicEq.exists_replace {r q : Regs} (h : r.PublicEq q) : ∃ k b, q = { r with key := k, data := b } :=
  ⟨q.key, q.data, congrArg (fun x : Regs => { x with key := q.key, data := q.data }) h⟩

/-- BUSY, CTRL and STATUS as read, and `irq`, depend on no key and no block (40_round_transform.md R74). -/
theorem Regs.PublicEq.observations {r q : Regs} (h : r.PublicEq q) :
    q.busy = r.busy ∧ q.statusWord = r.statusWord ∧ q.irq = r.irq := by
  obtain ⟨k, b, rfl⟩ := h.exists_replace
  exact ⟨rfl, rfl, rfl⟩

theorem Regs.PublicEq.raise {r q : Regs} (h : r.PublicEq q) (e : Event) : (r.raise e).PublicEq (q.raise e) := by
  obtain ⟨k, b, rfl⟩ := h.exists_replace
  cases e <;> rfl

/-- ROUNDS alone decides whether a START is accepted (42_commands.md R97, R98). -/
theorem Regs.PublicEq.start {r q : Regs} (h : r.PublicEq q) (m : Mode) (ie : Bool) : (r.start m ie).PublicEq (q.start m ie) := by
  obtain ⟨k, b, rfl⟩ := h.exists_replace
  simp only [Regs.start]
  split_ifs
  · rfl
  · rfl

/-- A write's update puts KEY and DATA nowhere else. -/
theorem Regs.PublicEq.writeUpdate {r q : Regs} (h : r.PublicEq q) (i : Instr) : (writeUpdate i r).PublicEq (writeUpdate i q) := by
  cases i with
  | cmdEncrypt w => exact h.start .encrypt (cmdIe w)
  | cmdDecrypt w => exact h.start .decrypt (cmdIe w)
  | _ => obtain ⟨k, b, rfl⟩ := h.exists_replace; rfl

/-- The write gate looks at the index and at BUSY alone (41_register_access.md R78, R79). -/
theorem Regs.PublicEq.gated {r q : Regs} (h : r.PublicEq q) (i : Instr) :
    (r.gated (instrReg i) (Machine.writeUpdate i)).PublicEq (q.gated (instrReg i) (Machine.writeUpdate i)) := by
  obtain ⟨hbusy, -, -⟩ := h.observations
  rw [Regs.gated_spec, Regs.gated_spec, hbusy]
  split_ifs
  · exact h.raise .errAccess
  · exact h.raise .errBusy
  · exact h.writeUpdate i

/-- A round updates SUM, COUNT and the flags from SUM, COUNT, ROUNDS and MODE alone (40_round_transform.md R64, R67, R69). -/
theorem Regs.PublicEq.engineStep {r q : Regs} (h : r.PublicEq q) : r.engineStep.PublicEq q.engineStep := by
  obtain ⟨hbusy, -, -⟩ := h.observations
  cases hb : r.busy with
  | false => rwa [Regs.engineStep_idle hb, Regs.engineStep_idle (hbusy.trans hb)]
  | true =>
    rw [Regs.engineStep_busy hb, Regs.engineStep_busy (hbusy.trans hb)]
    obtain ⟨k, b, rfl⟩ := h.exists_replace
    rfl

/-- The two states differ at most in KEY, DATA and the last response (40_round_transform.md R74). -/
structure State.PublicEq (s t : State) : Prop where
  regs : s.regs.PublicEq t.regs
  program : t.program = s.program
  sched : t.sched = s.sched

theorem afterPoll_program (rest : List HostOp) (s : State) :
    (afterPoll rest s).program = if pollEnds s.rdata then rest else s.program := by
  unfold afterPoll; split <;> rfl

theorem afterIrq_program (rest : List HostOp) (s : State) :
    (afterIrq rest s).program = if s.regs.irq then rest else s.program := by
  unfold afterIrq; split <;> rfl

theorem State.PublicEq.exec {s t : State} (h : s.PublicEq t) (i : Instr) :
    ∃ s' t', exec i s = .next s' ∧ exec i t = .next t' ∧ s'.PublicEq t' := by
  refine ⟨_, _, exec_eq i s, exec_eq i t, ?_⟩
  cases isRead i with
  | true => exact ⟨h.regs, h.program, h.sched⟩
  | false => exact ⟨h.regs.gated i, h.program, h.sched⟩

/-- A poll that decides how the host goes on reads STATUS. -/
theorem State.PublicEq.afterPoll {s t : State} (h : s.PublicEq t) (rest : List HostOp) :
    (afterPoll rest (s.reading .status)).PublicEq (afterPoll rest (t.reading .status)) := by
  obtain ⟨-, hstatus, -⟩ := h.regs.observations
  refine ⟨by simpa using h.regs, ?_, by simpa using h.sched⟩
  rw [afterPoll_program, afterPoll_program, State.reading_rdata, State.reading_rdata, Regs.read, Regs.read, hstatus,
    State.reading_program, State.reading_program, h.program]

theorem State.PublicEq.afterIrq {s t : State} (h : s.PublicEq t) (rest : List HostOp) :
    (afterIrq rest s).PublicEq (afterIrq rest t) := by
  obtain ⟨-, -, hirq⟩ := h.regs.observations
  refine ⟨by simpa using h.regs, ?_, by simpa using h.sched⟩
  simp [afterIrq_program, hirq, h.program]

theorem State.PublicEq.hostTurn {s t : State} (h : s.PublicEq t) :
    ∃ s' t', hostTurn s = .next s' ∧ hostTurn t = .next t' ∧ s'.PublicEq t' := by
  cases hp : s.program with
  | nil => exact ⟨s, t, by simp [Machine.hostTurn, hp], by simp [Machine.hostTurn, h.program, hp], h⟩
  | cons op rest =>
    have hp' := h.program.trans hp
    cases op with
    | txn w =>
      rw [hostTurn_txn hp, hostTurn_txn hp']
      have hissued : State.PublicEq { s with program := rest } { t with program := rest } := ⟨h.regs, rfl, h.sched⟩
      exact hissued.exec (decode w)
    | wait => exact ⟨_, _, hostTurn_wait hp, hostTurn_wait hp', h.afterPoll rest⟩
    | takeIrq =>
      exact ⟨_, _, by simp only [Machine.hostTurn, hp], by simp only [Machine.hostTurn, hp'], h.afterIrq rest⟩

/-- The schedule and BUSY decide whose turn is next (log 1, log 2). -/
theorem State.PublicEq.actsNext {s t : State} (h : s.PublicEq t) : t.actsNext = s.actsNext := by
  obtain ⟨hbusy, -, -⟩ := h.regs.observations
  simp only [State.actsNext, h.sched, unscheduledAgent, hbusy]

/-- Every step keeps two states alike but for KEY, DATA and the last response (40_round_transform.md R74). -/
theorem State.PublicEq.step {s t : State} (h : s.PublicEq t) :
    ∃ s' t', step s = .next s' ∧ step t = .next t' ∧ s'.PublicEq t' := by
  rw [step_eq_turn, step_eq_turn t, h.actsNext, h.sched]
  have hturn : State.PublicEq { s with sched := s.sched.tail } { t with sched := s.sched.tail } := ⟨h.regs, h.program, rfl⟩
  cases s.actsNext with
  | host => exact hturn.hostTurn
  | engine => exact ⟨_, _, rfl, rfl, h.regs.engineStep, h.program, rfl⟩
  | reset => exact ⟨_, _, rfl, rfl, rfl, h.program, rfl⟩

/-! ### One round -/

/-- A turn the schedule gives the engine (40_round_transform.md R68). -/
theorem step_scheduled_engine {s : State} {later : List Agent} (hs : s.sched = .engine :: later) :
    step s = .next { s with regs := s.regs.engineStep, sched := later } := by
  simp only [step, hs, turn, engineTurn]

/-- The mixing function in natural arithmetic (40_round_transform.md R59). -/
theorem mix_toNat (x ka kb s : Word) : (mix x ka kb s).toNat =
    ((x.toNat * 16 + ka.toNat) % 2 ^ 32) ^^^ ((x.toNat + s.toNat) % 2 ^ 32) ^^^ ((x.toNat / 32 + kb.toNat) % 2 ^ 32) := by
  rw [mix, BitVec.toNat_xor, BitVec.toNat_xor, BitVec.toNat_add, BitVec.toNat_add, BitVec.toNat_add, BitVec.toNat_shiftLeft,
    BitVec.toNat_ushiftRight, Nat.shiftLeft_eq, Nat.shiftRight_eq_div_pow, Nat.mod_add_mod]
  rfl

/-! ### An operation from its START to its end -/

/-- A START command that is accepted (42_commands.md R97, R100, R101). -/
theorem exec_startCommand {s : State} (hb : s.regs.busy = false) (hr : s.regs.rounds ≠ 0#32) (m : Mode) (wdata : Word) :
    exec (startCommand m wdata) s = .next { s with regs := (s.regs.setCtrl m (cmdIe wdata)).begin m, rdata := none } := by
  have hgate : s.regs.gated .ctrl (Regs.start m (cmdIe wdata)) = (s.regs.setCtrl m (cmdIe wdata)).begin m := by
    rw [Regs.gated_of_gatedByBusy rfl, hb, if_neg Bool.false_ne_true, Regs.start_accepted hr]
  rw [← hgate]
  cases m <;> rfl

/-- An accepted START puts its operation in progress (42_commands.md R97). -/
theorem Regs.inProgress_begin (m : Mode) (ie : Bool) {r : Regs} (hr : r.rounds ≠ 0#32) :
    ((r.setCtrl m ie).begin m).InProgress r.data r.key m r.rounds :=
  ⟨rfl, rfl, rfl, rfl, rfl, Regs.inv_begin m ie hr⟩

/-- Where no reset is scheduled, none acts next, and none is scheduled after a step. -/
theorem State.NoReset.step {s t : State} (hs : s.NoReset) (h : step s = .next t) : s.actsNext ≠ .reset ∧ t.NoReset := by
  obtain ⟨hsched, -⟩ := step_cases h
  refine ⟨?_, fun hmem => hs (List.mem_of_mem_tail (hsched ▸ hmem))⟩
  unfold State.actsNext unscheduledAgent
  cases hl : s.sched with
  | nil => cases s.regs.busy <;> simp
  | cons a later => exact fun ha => hs (by simp [hl, ha])

/-- While every state of a run with no reset is busy, its operation stays in progress (41_register_access.md R81). -/
theorem run_inProgress {b : Block} {k : KeyWords} {m : Mode} {rounds : Word} {n : Nat} {s t : State} (hrun : run n s = .next t)
    (hbusy : ∀ j ≤ n, ∀ x, run j s = .next x → x.regs.busy = true) (hs : s.NoReset) (hprog : s.regs.InProgress b k m rounds) :
    t.NoReset ∧ t.regs.InProgress b k m rounds := by
  induction n generalizing s with
  | zero => cases hrun; exact ⟨hs, hprog⟩
  | succ n ih =>
    obtain ⟨u, hu⟩ := step_answers s
    obtain ⟨hact, hnoreset⟩ := hs.step hu
    have hub : u.regs.busy = true := hbusy 1 (by omega) u (run_succ hu)
    obtain hprog' | ⟨hidle, -⟩ := operationInProgressStaysOrCompletes b k m rounds s u hprog hact hu
    · exact ih (run_succ hu ▸ hrun) (fun j hj x hx => hbusy (j + 1) (by omega) x (run_succ hu ▸ hx)) hnoreset hprog'
    · simp [hub] at hidle

/-- The step with no reset by which BUSY falls is a round (10_state.md R22). -/
theorem engineStep_of_busy_falls {s t : State} (hact : s.actsNext ≠ .reset) (h : step s = .next t) (hb : s.regs.busy = true)
    (hb' : t.regs.busy = false) : t.regs = s.regs.engineStep := by
  obtain ⟨-, heff⟩ | ⟨-, hq⟩ | ⟨ha, -⟩ := step_effect h
  · simp [(heff.sameOperation hb).busy, hb] at hb'
  · exact hq
  · exact absurd ha hact

/-- A START and the rounds after it leave KEY and ROUNDS (40_round_transform.md R64, R67; 42_commands.md R97, R98). -/
theorem Regs.engineSteps_start_frame (n : Nat) (r : Regs) (m : Mode) (ie : Bool) :
    (Regs.engineSteps n (r.start m ie)).key = r.key ∧ (Regs.engineSteps n (r.start m ie)).rounds = r.rounds := by
  induction n with
  | zero =>
    change (r.start m ie).key = r.key ∧ (r.start m ie).rounds = r.rounds
    obtain ⟨-, hq⟩ | ⟨-, hq⟩ := r.start_cases m ie <;> simp [hq]
  | succ n ih =>
    obtain ⟨hkey, hrounds⟩ := ih
    obtain ⟨hkey', hrounds', -⟩ := (Regs.engineSteps n (r.start m ie)).engineStep_frame
    rw [Regs.engineSteps_succ]
    exact ⟨hkey'.trans hkey, hrounds'.trans hrounds⟩

/-- Fewer rounds than are left keep an operation in progress (40_round_transform.md R69). -/
theorem Regs.InProgress.engineSteps {b : Block} {k : KeyWords} {m : Mode} {rounds : Word} {r : Regs} (h : r.InProgress b k m rounds)
    {n : Nat} (hn : n < r.rounds.toNat - r.count.toNat) : (Regs.engineSteps n r).InProgress b k m rounds := by
  induction n with
  | zero => exact h
  | succ n ih =>
    obtain ⟨hb, -, -, -, -, hinv⟩ := h
    obtain ⟨-, hbusy, -⟩ := Regs.engineSteps_running hinv hb hn
    rw [Regs.engineSteps_succ] at hbusy ⊢
    obtain hprog | ⟨hidle, -⟩ := (ih (by omega)).engineStep
    · exact hprog
    · simp [hbusy] at hidle

/-- ROUNDS rounds after a START its operation has completed (40_round_transform.md R69, R72). -/
theorem Regs.engineSteps_start {r : Regs} {rounds : Word} (hrounds : r.rounds = rounds) (hr : rounds ≠ 0#32) (m : Mode) (ie : Bool) :
    (Regs.engineSteps rounds.toNat (r.start m ie)).Completed r.data r.key m rounds := by
  subst hrounds
  have hprog := Regs.inProgress_begin m ie hr
  rw [Regs.start_accepted hr]
  obtain ⟨hidle, -⟩ := Regs.engineSteps_complete (Regs.inv_begin m ie hr) rfl
  obtain ⟨n, hn⟩ : ∃ n, r.rounds.toNat = n + 1 := ⟨r.rounds.toNat - 1, by bv_omega⟩
  change (Regs.engineSteps r.rounds.toNat _).busy = false at hidle
  rw [hn, Regs.engineSteps_succ] at hidle ⊢
  have hlast : (Regs.engineSteps n ((r.setCtrl m ie).begin m)).InProgress r.data r.key m r.rounds :=
    hprog.engineSteps (show n < r.rounds.toNat - 0 by omega)
  obtain ⟨hb, -⟩ | hdone := hlast.engineStep
  · simp [hidle] at hb
  · exact hdone

/-! ### The loops of `transform` -/

/-- `transform` is its loop's block after all its rounds (40_round_transform.md R72). -/
theorem transform_eq_partialBlock {n : Nat} (h : 1 ≤ n) (b : Block) (k : KeyWords) (m : Mode) :
    transform b k m n = partialBlock b k m (BitVec.ofNat 32 n) n := transform_of_pos h b k m

/-- The encrypt loop starts at DELTA whatever the round count is, so its first rounds are a whole shorter loop (40_round_transform.md R75). -/
theorem partialBlock_encrypt {n : Nat} (h : 1 ≤ n) (b : Block) (k : KeyWords) (rounds : Word) :
    partialBlock b k .encrypt rounds n = transform b k .encrypt n := (transform_eq_partialBlock h b k .encrypt).symm

/-- The body of the decrypt loop undoes an encrypt round at its own sum (40_round_transform.md R65). -/
theorem loopBody_decrypt_encRound (b : Block) (k : KeyWords) (s : Word) :
    loopBody .decrypt k ⟨(encRound b k s).v0, (encRound b k s).v1, s⟩ = ⟨b.v0, b.v1, s - Config.delta⟩ := by
  rw [loopBody_eq]
  exact congrArg (fun x : Block => LoopVars.mk x.v0 x.v1 (s - Config.delta)) (decRound_encRound b k s)

/-- A first round of a decrypt loop of one round more undoes an encrypt round, and leaves the shorter loop (40_round_transform.md R65). -/
theorem partialBlock_decrypt_succ (b : Block) (k : KeyWords) (n : Nat) :
    partialBlock (encRound b k (Config.delta * BitVec.ofNat 32 (n + 1))) k .decrypt (BitVec.ofNat 32 (n + 1)) (n + 1) =
      partialBlock b k .decrypt (BitVec.ofNat 32 n) n := by
  have hsum : Config.delta * BitVec.ofNat 32 (n + 1) - Config.delta = Config.delta * BitVec.ofNat 32 n := by
    rw [mul_ofNat_succ, BitVec.add_sub_cancel]
  unfold partialBlock
  rw [Function.iterate_succ_apply, startSum, loopBody_decrypt_encRound, hsum]
  rfl

/-- The decrypt loop undoes the encrypt loop, last round first (40_round_transform.md R73). -/
theorem partialBlock_decrypt_encrypt (b : Block) (k : KeyWords) (rounds : Word) (n : Nat) :
    partialBlock (partialBlock b k .encrypt rounds n) k .decrypt (BitVec.ofNat 32 n) n = b := by
  induction n with
  | zero => rfl
  | succ n ih =>
    have hround : partialBlock b k .encrypt rounds (n + 1) =
        encRound (partialBlock b k .encrypt rounds n) k (Config.delta * BitVec.ofNat 32 (n + 1)) := by
      rw [partialBlock_succ, BitVec.ofNat_add]
      rfl
    rw [hround, partialBlock_decrypt_succ, ih]

/-- The block involution (40_round_transform.md R73). -/
theorem transform_decrypt_encrypt (b : Block) (k : KeyWords) {n : Nat} (h : 1 ≤ n) :
    transform (transform b k .encrypt n) k .decrypt n = b := by
  rw [transform_eq_partialBlock h, transform_eq_partialBlock h, partialBlock_decrypt_encrypt]

end Sys2Proof.Machine

/-! The statements of 40_round_transform.md. -/

namespace Sys2Proof.Machine

/-- Settles O31: no update, no gate, no host decision and no choice of agent reads KEY or DATA. -/
theorem keyAndDataNeverReachTheFlags : Obligations.KeyAndDataNeverReachTheFlags := by
  intro s k b x
  have h : s.PublicEq { s with regs := { s.regs with key := k, data := b }, rdata := x } :=
    ⟨s.regs.publicEq_replace k b, rfl, rfl⟩
  obtain ⟨t, u, ht, hu, hregs, hprogram, hsched⟩ := h.step
  obtain ⟨-, -, hirq⟩ := hregs.observations
  exact ⟨t, u, ht, hu, hregs, hirq, hprogram, hsched⟩

/-- Settles O19: each term as a number, and the rule's corner values. -/
theorem mixingFunctionIsArithmetic : Obligations.MixingFunctionIsArithmetic :=
  ⟨mix_toNat, by decide, by decide, by decide, by decide⟩

/-- Settles O23: the sum after all ROUNDS rounds, as the invariants give it. -/
theorem completingRoundSumAndFlags : Obligations.CompletingRoundSumAndFlags := by
  refine ⟨fun r hi hb hlast => ?_, by decide⟩
  obtain ⟨-, hsum, -⟩ := (Regs.inv_iff_of_busy hb).mp hi
  have hnext : nextSum r.mode r.sum = sumAfter r.mode r.rounds r.rounds := by
    rw [hsum, ← sumAfter_succ, hlast]
  rw [Regs.engineStep_busy hb, hnext]
  refine ⟨by simp [hlast], by simp [hlast], hlast, rfl, rfl, rfl, rfl, ?_⟩
  cases hm : r.mode with
  | encrypt => rfl
  | decrypt => simp [sumAfter]

/-- Settles O24: the operation is in progress up to the step that clears BUSY, and that step is its last round. -/
theorem operationComputesTransform : Obligations.OperationComputesTransform := by
  intro s u m wdata hb hr hs hstart n t v hbusy hrun hstep hidle
  obtain rfl := Host.Outcome.next.inj ((exec_startCommand hb hr m wdata).symm.trans hstart)
  obtain ⟨hnoreset, hprog⟩ := run_inProgress hrun hbusy hs (Regs.inProgress_begin m (cmdIe wdata) hr)
  have hq := engineStep_of_busy_falls (hnoreset.step hstep).1 hstep hprog.1 hidle
  obtain ⟨hkey, hrounds, hmode, -⟩ := t.regs.engineStep_frame
  rw [hq] at hidle ⊢
  obtain ⟨hb', -⟩ | ⟨-, hdone, hcount, hdata⟩ := hprog.engineStep
  · simp [hidle] at hb'
  · obtain ⟨-, hkey', hmode', hrounds', -⟩ := hprog
    exact ⟨hdata, hdone, hcount, hkey.trans hkey', hrounds.trans hrounds', hmode.trans hmode'⟩

/-- Settles O26: each operation completes with `transform`, and the decrypt operation takes the encrypt operation's result. -/
theorem blockInvolution : Obligations.BlockInvolution := by
  refine ⟨fun b k r h => transform_decrypt_encrypt b k h, fun r ie ie' _ hr => ?_⟩
  intro encrypted decrypted
  obtain ⟨hidle, hdone, -, hdata⟩ : encrypted.Completed r.data r.key .encrypt r.rounds := Regs.engineSteps_start rfl hr .encrypt ie
  obtain ⟨hkey, hrounds⟩ : encrypted.key = r.key ∧ encrypted.rounds = r.rounds := Regs.engineSteps_start_frame _ r .encrypt ie
  obtain ⟨hidle', hdone', -, hdata'⟩ : decrypted.Completed encrypted.data encrypted.key .decrypt r.rounds :=
    Regs.engineSteps_start hrounds hr .decrypt ie'
  refine ⟨hidle, hdone, hidle', hdone', ?_⟩
  rw [hdata', hdata, hkey]
  exact transform_decrypt_encrypt _ _ (by bv_omega)

/-- Settles O27: the encrypt loop's first rounds are a shorter encrypt loop; the first of two decrypt rounds starts at another sum than the one of
a one-round decrypt. -/
theorem encryptPrefixIsTransform : Obligations.EncryptPrefixIsTransform := by
  refine ⟨fun s u wdata hb hr hs hstart n t hbusy hrun => ?_, { Regs.reset with rounds := 2#32 }, 1, by decide⟩
  obtain rfl := Host.Outcome.next.inj ((exec_startCommand hb hr .encrypt wdata).symm.trans hstart)
  obtain ⟨-, -, -, -, -, hdata, -⟩ := run_inProgress hrun hbusy hs (Regs.inProgress_begin .encrypt (cmdIe wdata) hr)
  rw [hdata]
  split_ifs with hc
  · rw [hc]; rfl
  · exact partialBlock_encrypt (by bv_omega) _ _ _

/-- Settles O20: the engine's turn is an encrypt round. -/
theorem encryptRoundStep : Obligations.EncryptRoundStep := by
  intro s later hs hb hm
  refine ⟨_, step_scheduled_engine hs, ?_⟩
  simp only [Regs.engineStep_busy hb, hm, roundOf, encRound, nextSum, Config.delta]

/-- Settles O21: the engine's turn is a decrypt round. -/
theorem decryptRoundStep : Obligations.DecryptRoundStep := by
  intro s later hs hb hm
  refine ⟨_, step_scheduled_engine hs, ?_⟩
  simp only [Regs.engineStep_busy hb, hm, roundOf, decRound, nextSum, Config.delta]

/-- Settles O22: the engine's turn while BUSY = 0 leaves the registers. -/
theorem engineIdleWhileNotBusy : Obligations.EngineIdleWhileNotBusy := by
  intro s later hs hb
  rw [step_scheduled_engine hs, Regs.engineStep_idle hb]

end Sys2Proof.Machine

/-! What the statements of 41_register_access.md need beside the laws: a transaction at a register's index, and what a write leaves on each
side of the gate. -/

namespace Sys2Proof.Machine

/-! ### The row at a register's index -/

/-- A read at a register's index is the read row of that register, whatever its WDATA (30_encoding.md R47, R51). -/
theorem decode_mk_read (reg : Reg) (w : Word) : decode (TxnWord.mk false (Reg.idx reg) w) = reg.readInstr := by
  rw [decode_mk, Reg.ofIdx_idx]

/-- A read at a register's index decodes to the register's read row, which answers its value (41_register_access.md R77). -/
theorem readRow_spec (reg : Reg) (w : Word) (s : State) :
    decode (TxnWord.mk false (Reg.idx reg) w) = reg.readInstr ∧
    exec reg.readInstr s = .next { s with rdata := some (s.regs.read reg) } :=
  ⟨decode_mk_read reg w, exec_readInstr reg s⟩

/-- A write at a register's index is the write row of that register (30_encoding.md R51). -/
theorem decode_mk_write (reg : Reg) (w : Word) : decode (TxnWord.mk true (Reg.idx reg) w) = reg.writeInstr w := by
  rw [decode_mk, Reg.ofIdx_idx]

/-! ### Writes on each side of the gate -/

/-- A write of CTRL, ROUNDS, KEY or DATA sets ERR_BUSY alone while BUSY = 1, and is its row's update otherwise (41_register_access.md R78). -/
theorem exec_write_gatedByBusy {reg : Reg} (h : gatedByBusy reg = true) (w : Word) (s : State) :
    exec (reg.writeInstr w) s = .next { s with
      regs := if s.regs.busy then { s.regs with errBusy := true } else writeUpdate (reg.writeInstr w) s.regs
      rdata := none } := by
  rw [exec_writeInstr, State.writing, Regs.gated_of_gatedByBusy h]

/-- A write of a read-only register or a reserved index sets ERR_ACCESS alone (41_register_access.md R79). -/
theorem exec_write_neverWritten {reg : Reg} (h : neverWritten reg = true) (w : Word) (s : State) :
    exec (reg.writeInstr w) s = .next { s with regs := { s.regs with errAccess := true }, rdata := none } := by
  rw [exec_writeInstr, State.writing, Regs.gated_spec, if_pos h]
  rfl

/-- No write that is let through sets ERR_BUSY (60_exceptions.md R103). -/
theorem errBusy_of_writeUpdate {i : Instr} {r : Regs} (h : (writeUpdate i r).errBusy = true) : r.errBusy = true := by
  have hstart (m : Mode) (ie : Bool) : (r.start m ie).errBusy = r.errBusy := by
    obtain ⟨-, hq⟩ | ⟨-, hq⟩ := r.start_cases m ie
    · rw [hq, Regs.raise_errBusy]; exact Bool.or_false _
    · rw [hq]; rfl
  cases i with
  | cmdEncrypt w => exact (hstart .encrypt (cmdIe w)).symm.trans h
  | cmdDecrypt w => exact (hstart .decrypt (cmdIe w)).symm.trans h
  | wrStatus w => exact Bool.and_elim_left h
  | _ => exact h

/-- A write that the busy gate does not refuse raises no ERR_BUSY (41_register_access.md R78, R79). -/
theorem Regs.errBusy_of_gated {reg : Reg} {i : Instr} {r : Regs} (hpass : gatedByBusy reg = false ∨ r.busy = false)
    (h : (r.gated reg (writeUpdate i)).errBusy = true) : r.errBusy = true := by
  have hgate : (gatedByBusy reg && r.busy) = false := Bool.and_eq_false_iff.mpr hpass
  rw [Regs.gated_spec, hgate, if_neg Bool.false_ne_true] at h
  split at h
  · rw [Regs.raise_errBusy] at h
    exact (Bool.or_false _).symm.trans h
  · exact errBusy_of_writeUpdate h

/-! ### The registers written, field by field -/

/-- Each flag is cleared by its bit of the mask (41_register_access.md R84). -/
theorem Regs.acknowledge_eq (w : Word) (r : Regs) :
    r.acknowledge w = { r with
      done := if w.getLsbD 1 then false else r.done
      errRounds := if w.getLsbD 2 then false else r.errRounds
      errBusy := if w.getLsbD 3 then false else r.errBusy
      errAccess := if w.getLsbD 4 then false else r.errAccess } := by
  have hflag (b c : Bool) : (b && !c) = if c then false else b := by cases c <;> simp
  simp only [Regs.acknowledge, clearsDone, clearsErrRounds, clearsErrBusy, clearsErrAccess, hflag]

/-- The key with word n replaced, word by word (41_register_access.md R89). -/
theorem KeyWords.set_eq (k : KeyWords) (n : Fin 4) (v : Word) :
    k.set n v = ⟨if n = 0 then v else k.k0, if n = 1 then v else k.k1, if n = 2 then v else k.k2, if n = 3 then v else k.k3⟩ := by
  match n with
  | 0 | 1 | 2 | 3 => rfl

/-- The block with word n replaced, word by word (41_register_access.md R91). -/
theorem Block.set_eq (b : Block) (n : Fin 2) (v : Word) :
    b.set n v = ⟨if n = 0 then v else b.v0, if n = 1 then v else b.v1⟩ := by
  match n with
  | 0 | 1 => rfl

end Sys2Proof.Machine

/-! The statements of 41_register_access.md. -/

namespace Sys2Proof.Machine

/-- Settles O32: a word with WE = 0 decodes to a read row. -/
theorem readsChangeNothing : Obligations.ReadsChangeNothing := by
  intro t s hwe
  obtain ⟨-, hd⟩ | ⟨hwe', -⟩ := decode_cases t
  · refine ⟨s.reading (Reg.ofIdx (TxnWord.idx t)), ?_, rfl, rfl⟩
    rw [hd, exec_readInstr]
  · rw [hwe] at hwe'; cases hwe'

/-- Settles O36: the indices listed are those of the gated registers; everywhere else, and while BUSY = 0, the gate raises no ERR_BUSY and no
row's update does. -/
theorem busyGateRefusesWrites : Obligations.BusyGateRefusesWrites := by
  refine ⟨fun idx w s hidx hb => ?_, fun idx w s hpass => ?_⟩
  · rw [decode_mk, exec_write_gatedByBusy ((gatedByBusy_ofIdx idx).mpr hidx), if_pos hb]
  · rw [← gatedByBusy_ofIdx, Bool.not_eq_true] at hpass
    rw [decode_mk]
    exact ⟨_, exec_writeInstr _ w s, Regs.errBusy_of_gated hpass⟩

/-- Settles O33: the read row of CTRL, and the word it returns bit by bit. -/
theorem readCtrlReturnsModeAndIe : Obligations.ReadCtrlReturnsModeAndIe := by
  refine ⟨decode_mk_read .ctrl, fun s => ⟨_, exec_readInstr .ctrl s, ?_, ?_, fun j h1 h2 => ?_⟩⟩
  · exact s.regs.ctrlWord_bit 2
  · refine (s.regs.ctrlWord_bit 1).trans ?_
    cases s.regs.mode <;> rfl
  · refine (s.regs.ctrlWord_bit j).trans ?_
    rw [if_neg h1, if_neg h2]

/-- Settles O34: the read row of STATUS, and the word it returns bit by bit. -/
theorem readStatusReturnsFlags : Obligations.ReadStatusReturnsFlags := by
  refine ⟨decode_mk_read .status, fun s => ⟨s.regs.statusWord, exec_readInstr .status s, ?_⟩⟩
  have hbit := s.regs.statusWord_bit
  refine ⟨hbit 0, hbit 1, hbit 2, hbit 3, hbit 4, fun j hj => ?_⟩
  obtain ⟨k, rfl⟩ := Nat.exists_eq_add_of_le' hj
  exact hbit (k + 5)

/-- Settles O35: one row after the other. -/
theorem readsReturnTheRegister : Obligations.ReadsReturnTheRegister :=
  ⟨readRow_spec .rounds, readRow_spec .count, readRow_spec (.key 0), readRow_spec (.key 1), readRow_spec (.key 2), readRow_spec (.key 3),
    readRow_spec (.data 0), readRow_spec (.data 1), readRow_spec .sum, readRow_spec .rsvd11, fun n => readRow_spec (.rsvd12 n)⟩

/-- Settles O37: the four rows are those of the registers that are never written. -/
theorem accessErrorRefusesWrites : Obligations.AccessErrorRefusesWrites := by
  refine ⟨decode_mk_write .count, decode_mk_write .sum, decode_mk_write .rsvd11, fun n => decode_mk_write (.rsvd12 n), fun w n s i hi => ?_⟩
  simp only [List.mem_cons, List.not_mem_nil, or_false] at hi
  obtain rfl | rfl | rfl | rfl := hi
  · exact exec_write_neverWritten (reg := .count) rfl w s
  · exact exec_write_neverWritten (reg := .sum) rfl w s
  · exact exec_write_neverWritten (reg := .rsvd11) rfl w s
  · exact exec_write_neverWritten (reg := .rsvd12 n) rfl w s

/-- Settles O38: the gate lets every write of STATUS through, and the acknowledgement clears flag by flag. -/
theorem writeStatusClearsFlags : Obligations.WriteStatusClearsFlags := by
  refine ⟨decode_mk_write .status, fun w s => ?_⟩
  rw [← Regs.acknowledge_eq]
  exact exec_writeInstr .status w s

/-- Settles O39: ROUNDS is a gated register. -/
theorem writeRounds : Obligations.WriteRounds :=
  ⟨decode_mk_write .rounds, exec_write_gatedByBusy (reg := .rounds) rfl⟩

/-- Settles O40: KEY is gated, and its update replaces one word. -/
theorem writeKeyWord : Obligations.WriteKeyWord := by
  refine ⟨fun n => decode_mk_write (.key n), fun n w s => ?_⟩
  rw [← KeyWords.set_eq]
  exact exec_write_gatedByBusy (reg := .key n) rfl w s

/-- Settles O41: DATA is gated, and its update replaces one word. -/
theorem writeDataWord : Obligations.WriteDataWord := by
  refine ⟨fun n => decode_mk_write (.data n), fun n w s => ?_⟩
  rw [← Block.set_eq]
  exact exec_write_gatedByBusy (reg := .data n) rfl w s

end Sys2Proof.Machine

/-! What the statements of 42_commands.md need beside the laws: the row of a CTRL write by its START and MODE bits, what each CTRL write leaves,
and the start value of SUM as a number. -/

namespace Sys2Proof.Machine

/-! ### The row of a CTRL write -/

/-- A write at IDX 0 is the row its command word selects (30_encoding.md R51). -/
theorem decode_ctrl_write (w : Word) : decode (TxnWord.mk true 0#4 w) = ctrlWriteInstr w := decode_mk_write .ctrl w

/-- A CTRL write with START = 0 is the WR_CTRL row (30_encoding.md R51). -/
theorem decode_ctrl_setting {w : Word} (h : w.getLsbD 0 = false) : decode (TxnWord.mk true 0#4 w) = .wrCtrl w := by
  rw [decode_ctrl_write, ctrlWriteInstr, h]

/-- A CTRL write with START = 1 is the command of the mode its MODE bit names (30_encoding.md R49, R51). -/
theorem decode_ctrl_start {w : Word} (h : w.getLsbD 0 = true) :
    decode (TxnWord.mk true 0#4 w) = startCommand (cmdMode w) w := by
  rw [decode_ctrl_write, ctrlWriteInstr, h, cmdMode]
  cases w.getLsbD 1 <;> rfl

/-- The MODE bit of a command word is 0 for Encrypt (00_scope.md R11). -/
theorem cmdMode_encrypt {w : Word} (h : w.getLsbD 1 = false) : cmdMode w = .encrypt := by rw [cmdMode, h]; rfl

/-- The MODE bit of a command word is 1 for Decrypt (00_scope.md R11). -/
theorem cmdMode_decrypt {w : Word} (h : w.getLsbD 1 = true) : cmdMode w = .decrypt := by rw [cmdMode, h]; rfl

/-! ### What a CTRL write leaves -/

/-- Every CTRL write, whatever its operand, sets ERR_BUSY alone while BUSY = 1, and is its row's update otherwise (42_commands.md R96). -/
theorem exec_ctrlWrite {i : Instr} (hw : isRead i = false) (hreg : instrReg i = .ctrl) (s : State) :
    exec i s = .next { s with
      regs := if s.regs.busy then { s.regs with errBusy := true } else writeUpdate i s.regs
      rdata := none } := by
  rw [exec_eq, hw, if_neg Bool.false_ne_true, hreg, State.writing, Regs.gated_of_gatedByBusy rfl]

/-- A START command sets ERR_BUSY alone while BUSY = 1, and is a START otherwise (42_commands.md R100, R101). -/
theorem exec_startCommand_eq (m : Mode) (w : Word) (s : State) :
    exec (startCommand m w) s = .next { s with
      regs := if s.regs.busy then { s.regs with errBusy := true } else s.regs.start m (cmdIe w)
      rdata := none } := by
  cases m with
  | encrypt => exact exec_ctrlWrite (i := .cmdEncrypt w) rfl rfl s
  | decrypt => exact exec_ctrlWrite (i := .cmdDecrypt w) rfl rfl s

/-- A START that is refused (42_commands.md R98). -/
theorem Regs.start_refused {m : Mode} {ie : Bool} {r : Regs} (h : r.rounds = 0#32) :
    r.start m ie = (r.setCtrl m ie).raise .errRounds := if_pos h

/-- The start value of a decrypt's SUM in natural arithmetic (40_round_transform.md R66). -/
theorem startSum_decrypt (rounds : Word) : startSum .decrypt rounds = BitVec.ofNat 32 (0x9E3779B9 * rounds.toNat) := by
  rw [startSum, Config.delta, BitVec.ofNat_mul, BitVec.ofNat_toNat, BitVec.setWidth_eq]

/-- The start value of SUM by the MODE bit of the command word (40_round_transform.md R62, R66). -/
theorem startSum_cmdMode (w rounds : Word) :
    startSum (cmdMode w) rounds =
      if w.getLsbD 1 then BitVec.ofNat 32 (0x9E3779B9 * rounds.toNat) else 0x9E3779B9#32 := by
  rw [← startSum_decrypt]
  exact apply_ite (startSum · rounds) _ _ _

end Sys2Proof.Machine

/-! The statements of 42_commands.md. -/

namespace Sys2Proof.Machine

/-- Settles O43: the word is the START command of its MODE bit, which is accepted, with the start value of SUM as a number. -/
theorem acceptedStart : Obligations.AcceptedStart := by
  intro w s hstart hb hr
  rw [decode_ctrl_start hstart, exec_startCommand hb hr, ← startSum_cmdMode]
  rfl

/-- Settles O44: the word is the START command of its MODE bit, which is refused. -/
theorem refusedStart : Obligations.RefusedStart := by
  intro w s hstart hb hr
  rw [decode_ctrl_start hstart, exec_startCommand_eq, hb, if_neg Bool.false_ne_true, Regs.start_refused hr]
  rfl

/-- Settles O45: WR_CTRL is a CTRL write whose update writes MODE and IE. -/
theorem writeCtrl : Obligations.WriteCtrl :=
  ⟨fun _ => decode_ctrl_setting, fun w s => exec_ctrlWrite (i := .wrCtrl w) rfl rfl s⟩

/-- Settles O46: CMD_ENCRYPT is a START in the mode Encrypt. -/
theorem commandEncrypt : Obligations.CommandEncrypt := by
  refine ⟨fun w hstart hmode => ?_, exec_startCommand_eq .encrypt⟩
  rw [decode_ctrl_start hstart, cmdMode_encrypt hmode]
  rfl

/-- Settles O47: CMD_DECRYPT is a START in the mode Decrypt, with the start value of SUM as a number. -/
theorem commandDecrypt : Obligations.CommandDecrypt := by
  refine ⟨fun w hstart hmode => ?_, fun w s => ?_⟩
  · rw [decode_ctrl_start hstart, cmdMode_decrypt hmode]
    rfl
  · rw [← startSum_decrypt]
    exact exec_startCommand_eq .decrypt w s

end Sys2Proof.Machine

/-! What the statements of 60_exceptions.md need beside the laws: the error flag a write raises, the line with no flag set, and the end of a
host program that waits for its operation. -/

namespace Sys2Proof.Machine

/-! ### The error flag a write raises -/

/-- The registers that are never written are those of the read-only and reserved indices (41_register_access.md R79). -/
theorem neverWritten_ofIdx (idx : BitVec 4) :
    neverWritten (Reg.ofIdx idx) = true ↔ idx ∈ [3#4, 10#4, 11#4, 12#4, 13#4, 14#4, 15#4] := by
  revert idx; decide

/-- IDX 1 is STATUS and no other index is (10_state.md R14). -/
theorem beq_one_eq_isStatus (idx : BitVec 4) : (idx == 1#4) = decide (Reg.ofIdx idx = .status) := by
  revert idx; decide

/-- The error event of a write: what the gate finds, and ERR_ROUNDS where the gate lets a START through and ROUNDS = 0
(60_exceptions.md R104). -/
def writeError (reg : Reg) (w : Word) (r : Regs) : Option Event :=
  (writeGate reg r).or
    (if reg = .ctrl ∧ w.getLsbD 0 = true ∧ r.busy = false ∧ r.rounds = 0#32 then some .errRounds else none)

/-- A START raises ERR_ROUNDS where ROUNDS = 0, and no other error flag changes (42_commands.md R97, R98). -/
theorem Regs.start_flag (m : Mode) (ie : Bool) (r : Regs) {e : Event} (he : e ≠ .done) :
    (r.start m ie).flag e = (r.flag e || decide (r.rounds = 0#32 ∧ .errRounds = e)) := by
  obtain ⟨hr, hq⟩ | ⟨hr, hq⟩ := r.start_cases m ie
  · simp [hq, hr, Regs.raise_flag]
  · simp [hq, hr, Regs.begin_flag m _ he]

/-- A CTRL write let through raises ERR_ROUNDS where it is a START and ROUNDS = 0 (42_commands.md R98, R99). -/
theorem ctrlWrite_flag (w : Word) (r : Regs) {e : Event} (he : e ≠ .done) :
    (writeUpdate (ctrlWriteInstr w) r).flag e =
      (r.flag e || decide ((w.getLsbD 0 = true ∧ r.rounds = 0#32) ∧ .errRounds = e)) := by
  obtain ⟨h0, hi⟩ | ⟨h0, -, hi⟩ | ⟨h0, -, hi⟩ := ctrlWriteInstr_cases w
  · rw [hi, h0]; simp [writeUpdate]
  · rw [hi, h0]; simp [writeUpdate, Regs.start_flag _ _ _ he]
  · rw [hi, h0]; simp [writeUpdate, Regs.start_flag _ _ _ he]

/-- An error flag after a write let through: a START may raise ERR_ROUNDS, WR_STATUS clears (60_exceptions.md R104). -/
theorem writeUpdate_flag (reg : Reg) (w : Word) (r : Regs) {e : Event} (he : e ≠ .done) :
    (writeUpdate (reg.writeInstr w) r).flag e =
      ((r.flag e && !(decide (reg = .status) && w.getLsbD e.code)) ||
        decide ((reg = .ctrl ∧ w.getLsbD 0 = true ∧ r.rounds = 0#32) ∧ .errRounds = e)) := by
  cases reg with
  | ctrl => rw [Reg.writeInstr, ctrlWrite_flag w r he]; simp
  | status => exact (r.acknowledge_flag w e).trans (by simp)
  | rounds | count | key | data | sum | rsvd11 | rsvd12 => simp [Reg.writeInstr, writeUpdate]

/-- An error flag after a write: set by the write's one error event, cleared by its bit of a WR_STATUS mask (60_exceptions.md R104). -/
theorem Regs.gated_flag (reg : Reg) (w : Word) (r : Regs) {e : Event} (he : e ≠ .done) :
    (r.gated reg (writeUpdate (reg.writeInstr w))).flag e =
      ((r.flag e && !(decide (reg = .status) && w.getLsbD e.code)) || decide (writeError reg w r = some e)) := by
  rw [Regs.gated, writeError]
  cases hgate : writeGate reg r with
  | some e' =>
    have hstatus : reg ≠ .status := by rintro rfl; cases hgate
    simp [hstatus, Regs.raise_flag]
  | none =>
    have hbusy : reg = .ctrl → r.busy = false := by rintro rfl; simpa [writeGate] using hgate
    simp only [Option.none_or, writeUpdate_flag reg w r he]
    congr 1
    by_cases hctrl : reg = .ctrl
    · simp [hctrl, hbusy hctrl]
    · simp [hctrl]

/-! ### The interrupt line -/

/-- With no flag set the line is 0, whatever IE (60_exceptions.md R106). -/
theorem Regs.irq_of_no_flag {r : Regs} (h : ∀ e, r.flag e = false) : r.irq = false := by
  have hany : r.anyEvent = false := by
    rw [Regs.anyEvent, show r.done = false from h .done, show r.errRounds = false from h .errRounds,
      show r.errBusy = false from h .errBusy, show r.errAccess = false from h .errAccess]
    rfl
  rw [Regs.irq, hany, Bool.and_false]

/-! ### The host's turn with nothing to issue, and while it waits -/

/-- The host's turn with nothing to issue (60_exceptions.md R116). -/
theorem hostTurn_nil {s : State} (h : s.program = []) : hostTurn s = .next s := by
  unfold hostTurn
  rw [h]

/-- The host's turn while it waits for `irq` (60_exceptions.md R106). -/
theorem hostTurn_takeIrq {s : State} {rest : List HostOp} (h : s.program = .takeIrq :: rest) :
    hostTurn s = .next (afterIrq rest s) := by
  unfold hostTurn
  rw [h]

/-- A host's step with nothing to issue (60_exceptions.md R116; log 1). -/
theorem step_host_nil {s : State} (ha : s.actsNext = .host) (hp : s.program = []) : step s = .next { s with sched := s.sched.tail } := by
  rw [step_eq_turn, ha]
  exact hostTurn_nil hp

/-- A host with nothing to issue has nothing to issue after any step. -/
theorem step_program_nil {s t : State} (hp : s.program = []) (h : step s = .next t) : t.program = [] := by
  cases ha : s.actsNext with
  | host => rw [step_host_nil ha hp] at h; cases h; exact hp
  | engine | reset => rw [step_eq_turn, ha] at h; cases h; exact hp

/-- An engine's step, scheduled or not (40_round_transform.md R68). -/
theorem step_engine {s : State} (ha : s.actsNext = .engine) :
    step s = .next { s with regs := s.regs.engineStep, sched := s.sched.tail } := by
  rw [step_eq_turn, ha]
  rfl

/-- The poll of a WAIT ends it where BUSY = 0 (30_encoding.md R57). -/
theorem pollEnds_statusWord (r : Regs) : pollEnds (some r.statusWord) = !r.busy :=
  congrArg (! ·) (r.statusWord_bit 0)

/-- Whether the host's turn takes a waiting operation off its program (30_encoding.md R57; 70_reset_and_hazards.md R123). -/
def HostOp.waitEnds (op : HostOp) (r : Regs) : Bool :=
  match op with
  | .txn _ => true
  | .wait => !r.busy
  | .takeIrq => r.irq

/-- Whether a waiting operation shows the host that BUSY = 0 (70_reset_and_hazards.md R129, R139). -/
def HostOp.waitShowsIdle (op : HostOp) (r : Regs) : Bool :=
  match op with
  | .txn _ => false
  | .wait => !r.busy
  | .takeIrq => r.irqShowsIdle

/-- What shows the host that BUSY = 0 is so, and ends its wait. -/
theorem HostOp.waitEnds_of_showsIdle {op : HostOp} {r : Regs} (h : op.waitShowsIdle r = true) :
    r.busy = false ∧ op.waitEnds r = true := by
  cases op with
  | txn => cases h
  | wait => exact ⟨by simpa [waitShowsIdle] using h, h⟩
  | takeIrq =>
    simp only [waitShowsIdle, Regs.irqShowsIdle, Bool.and_eq_true, Bool.not_eq_true'] at h
    obtain ⟨⟨hirq, hb⟩, -⟩ := h
    exact ⟨hb, hirq⟩

/-- A turn of a host that waits: the block's registers stay, and the wait goes on or ends (30_encoding.md R57;
70_reset_and_hazards.md R123, R139). -/
theorem step_waiting {s : State} {op : HostOp} (hop : op ∈ [HostOp.wait, HostOp.takeIrq]) (ha : s.actsNext = .host)
    (hp : s.program = [op]) :
    ∃ t, step s = .next t ∧ t.regs = s.regs ∧ t.program = (if op.waitEnds s.regs then [] else [op]) ∧
      s.observesIdle t = op.waitShowsIdle s.regs := by
  simp only [List.mem_cons, List.not_mem_nil, or_false] at hop
  rw [step_eq_turn, ha, turn]
  obtain rfl | rfl := hop
  · refine ⟨_, hostTurn_wait hp, by simp, ?_, ?_⟩
    · simp [afterPoll_program, HostOp.waitEnds, Regs.read, pollEnds_statusWord, hp]
    · simp [State.observesIdle, ha, hp, HostOp.waitShowsIdle, Regs.read, pollEnds_statusWord]
  · refine ⟨_, hostTurn_takeIrq hp, by simp, ?_, ?_⟩
    · rw [afterIrq_program, hp]; rfl
    · simp [State.observesIdle, ha, hp, HostOp.waitShowsIdle]

/-! ### The end of a host program -/

/-- A host that awaits the end of its operation goes on so until it observes BUSY = 0 (70_reset_and_hazards.md R139). -/
theorem State.awaitsAfter_true (s t : State) : s.awaitsAfter true t = !s.observesIdle t := by
  simp [State.awaitsAfter]

/-- A host with nothing to issue observes nothing (70_reset_and_hazards.md R139; log 7). -/
theorem State.observesIdle_nil {s : State} (h : s.program = []) (t : State) : s.observesIdle t = false := by
  unfold State.observesIdle
  rw [h]
  cases s.actsNext <;> rfl

/-- In the engine's turn the host observes nothing (70_reset_and_hazards.md R139; log 7). -/
theorem State.observesIdle_engine {s : State} (h : s.actsNext = .engine) (t : State) : s.observesIdle t = false := by
  unfold State.observesIdle
  rw [h]

/-- A program that awaits the end of its operation goes on with the next step. -/
theorem State.endState_awaits {n : Nat} {s t : State} (h : step s = .next t) :
    State.endState (n + 1) true s = State.endState n (!s.observesIdle t) t := by
  rw [State.endState_succ s.ended_of_awaits h, State.awaitsAfter_true]

/-- A program that awaits the end of its operation with nothing to issue has no end state (70_reset_and_hazards.md R139). -/
theorem State.endState_awaits_nil (n : Nat) {s : State} (h : s.program = []) : State.endState n true s = none := by
  induction n generalizing s with
  | zero => exact State.endState_zero s.ended_of_awaits
  | succ n ih =>
    obtain ⟨t, ht⟩ := step_answers s
    rw [State.endState_awaits ht, State.observesIdle_nil h]
    exact ih (step_program_nil h ht)

/-- The end state where the program has ended and BUSY = 0 (70_reset_and_hazards.md R139). -/
theorem State.endState_of_idle (n : Nat) {s : State} (hp : s.program = []) (hb : s.regs.busy = false) :
    State.endState n false s = some s.regs := by
  rw [State.endState_of_ended (by simp [State.ended, hp]), State.regsAtEnd, hb]
  rfl

/-- The state after an accepted START the host issues, with `rest` left to issue (42_commands.md R97). -/
def State.afterStart (m : Mode) (wdata : Word) (rest : List HostOp) (s : State) : State :=
  { s with regs := (s.regs.setCtrl m (cmdIe wdata)).begin m, rdata := none, program := rest, sched := s.sched.tail }

/-- The host's step that issues an accepted START (42_commands.md R97). -/
theorem step_start {s : State} {t : TxnWord} {rest : List HostOp} {m : Mode} {wdata : Word} (ha : s.actsNext = .host)
    (hp : s.program = .txn t :: rest) (hd : decode t = startCommand m wdata) (hb : s.regs.busy = false) (hr : s.regs.rounds ≠ 0#32) :
    step s = .next (s.afterStart m wdata rest) := by
  have hturn : step s = exec (decode t) { s with program := rest, sched := s.sched.tail } := by
    rw [step_eq_turn, ha]
    exact hostTurn_txn hp
  rw [hturn, hd]
  exact exec_startCommand (s := { s with program := rest, sched := s.sched.tail }) hb hr m wdata

/-- After an accepted START the program goes on and the end of its operation is awaited (70_reset_and_hazards.md R139). -/
theorem State.endState_start {s : State} {t : TxnWord} {rest : List HostOp} {m : Mode} {wdata : Word} (ha : s.actsNext = .host)
    (hp : s.program = .txn t :: rest) (hd : decode t = startCommand m wdata) (hb : s.regs.busy = false) (hr : s.regs.rounds ≠ 0#32)
    (n : Nat) : State.endState (n + 1) false s = State.endState n true (s.afterStart m wdata rest) := by
  have hread : startCommand m wdata ≠ .rdStatus := by cases m <;> nofun
  have hawaits : s.awaitsAfter false (s.afterStart m wdata rest) = true := by
    simp [State.awaitsAfter, State.startsOperation, State.observesIdle, State.afterStart, ha, hp, hd, hb, hread]
  rw [State.endState_succ (State.ended_of_cons hp) (step_start ha hp hd hb hr), hawaits]

/-- A host that is shown BUSY = 0 with its last operation has an end state there (70_reset_and_hazards.md R139). -/
theorem State.endState_of_showsIdle {op : HostOp} {s : State} (hop : op ∈ [HostOp.wait, HostOp.takeIrq]) (ha : s.actsNext = .host)
    (hp : s.program = [op]) (hidle : op.waitShowsIdle s.regs = true) (n : Nat) : State.endState (n + 1) true s = some s.regs := by
  obtain ⟨t, ht, hq, hprogram, hobs⟩ := step_waiting hop ha hp
  obtain ⟨hb, hends⟩ := HostOp.waitEnds_of_showsIdle hidle
  rw [hends] at hprogram
  rw [State.endState_awaits ht, hobs, hidle, Bool.not_true, State.endState_of_idle n hprogram (hq ▸ hb), hq]

/-- A host that waits with its last operation has an end state only where it is shown BUSY = 0, in this turn or a later one
(70_reset_and_hazards.md R139). -/
theorem State.endState_waiting_cases {op : HostOp} {s : State} {r : Regs} {n : Nat} (hop : op ∈ [HostOp.wait, HostOp.takeIrq])
    (ha : s.actsNext = .host) (hp : s.program = [op]) (hend : State.endState (n + 1) true s = some r) :
    (s.regs.busy = false ∧ r = s.regs) ∨
    (∃ t, step s = .next t ∧ t.regs = s.regs ∧ t.program = [op] ∧ State.endState n true t = some r) := by
  cases hidle : op.waitShowsIdle s.regs with
  | true =>
    rw [State.endState_of_showsIdle hop ha hp hidle] at hend
    exact .inl ⟨(HostOp.waitEnds_of_showsIdle hidle).1, (Option.some.inj hend).symm⟩
  | false =>
    obtain ⟨t, ht, hq, hprogram, hobs⟩ := step_waiting hop ha hp
    rw [State.endState_awaits ht, hobs, hidle, Bool.not_false] at hend
    cases hends : op.waitEnds s.regs with
    | true =>
      rw [hends] at hprogram
      simp [State.endState_awaits_nil n hprogram] at hend
    | false =>
      rw [hends] at hprogram
      exact .inr ⟨t, ht, hq, hprogram, hend⟩

/-- An engine's turn leaves an operation in progress or completed (40_round_transform.md R68, R69, R72). -/
theorem Regs.engineStep_inProgress_or_completed {b : Block} {k : KeyWords} {m : Mode} {rounds : Word} {r : Regs}
    (h : r.InProgress b k m rounds ∨ r.Completed b k m rounds) :
    r.engineStep.InProgress b k m rounds ∨ r.engineStep.Completed b k m rounds := by
  obtain hprog | hdone := h
  · exact hprog.engineStep
  · exact .inr (by rwa [Regs.engineStep_idle hdone.1])

/-- With no reset, a program that waits for its operation ends with the operation completed (70_reset_and_hazards.md R139). -/
theorem State.completed_of_endState {b : Block} {k : KeyWords} {m : Mode} {rounds : Word} {op : HostOp} {n : Nat} {s : State}
    {r : Regs} (hop : op ∈ [HostOp.wait, HostOp.takeIrq]) (hs : s.NoReset) (hp : s.program = [op])
    (hregs : s.regs.InProgress b k m rounds ∨ s.regs.Completed b k m rounds) (hend : State.endState n true s = some r) :
    r.Completed b k m rounds := by
  induction n generalizing s with
  | zero => simp [State.endState_zero s.ended_of_awaits] at hend
  | succ n ih =>
    cases ha : s.actsNext with
    | reset =>
      obtain ⟨t, ht⟩ := step_answers s
      exact absurd ha (hs.step ht).1
    | engine =>
      have ht := step_engine ha
      rw [State.endState_awaits ht, State.observesIdle_engine ha] at hend
      exact ih (hs.step ht).2 hp (Regs.engineStep_inProgress_or_completed hregs) hend
    | host =>
      obtain ⟨hidle, rfl⟩ | ⟨t, ht, hq, hprogram, hend'⟩ := State.endState_waiting_cases hop ha hp hend
      · exact hregs.resolve_left fun ⟨hbusy, _⟩ => by simp [hidle] at hbusy
      · exact ih (hs.step ht).2 hprogram (hq ▸ hregs) hend'

/-- While BUSY = 1 and nothing is scheduled, the awaited operation's rounds are the next steps (log 2). -/
theorem State.endState_unscheduled_busy {n : Nat} (k : Nat) {s : State} (hs : s.sched = [])
    (hb : ∀ j < k, (Regs.engineSteps j s.regs).busy = true) :
    State.endState (k + n) true s = State.endState n true { s with regs := Regs.engineSteps k s.regs } := by
  induction k generalizing s with
  | zero => rw [Nat.zero_add]; rfl
  | succ k ih =>
    have hbusy : s.regs.busy = true := hb 0 k.succ_pos
    have ha : s.actsNext = .engine := by simp [State.actsNext, hs, unscheduledAgent, hbusy]
    rw [Nat.succ_add, State.endState_awaits (step_unscheduled_busy hs hbusy), State.observesIdle_engine ha]
    exact ih hs fun j hj => hb (j + 1) (by omega)

/-- The rounds of an operation leave IE and the error flags (40_round_transform.md R64, R67). -/
theorem Regs.engineSteps_frame (n : Nat) (r : Regs) :
    (Regs.engineSteps n r).ie = r.ie ∧ (Regs.engineSteps n r).errRounds = r.errRounds ∧
    (Regs.engineSteps n r).errBusy = r.errBusy ∧ (Regs.engineSteps n r).errAccess = r.errAccess := by
  induction n with
  | zero => exact ⟨rfl, rfl, rfl, rfl⟩
  | succ n ih =>
    obtain ⟨hie, hrounds, hbusy, haccess⟩ := ih
    obtain ⟨-, -, -, hie', hrounds', hbusy', haccess'⟩ := (Regs.engineSteps n r).engineStep_frame
    rw [Regs.engineSteps_succ]
    exact ⟨hie'.trans hie, hrounds'.trans hrounds, hbusy'.trans hbusy, haccess'.trans haccess⟩

/-- DONE alone, with IE = 1, shows the host that BUSY = 0 (70_reset_and_hazards.md R129). -/
theorem Regs.irqShowsIdle_of_done {r : Regs} (hb : r.busy = false) (hdone : r.done = true) (hie : r.ie = true)
    (hrounds : r.errRounds = false) (hbusy : r.errBusy = false) (haccess : r.errAccess = false) : r.irqShowsIdle = true := by
  simp [Regs.irqShowsIdle, Regs.irq, Regs.anyEvent, hb, hdone, hie, hrounds, hbusy, haccess]

/-- The waiting operation is shown the end of an operation that the command word `wdata` starts at `r`: a WAIT always, and waiting for `irq`
where the word has IE = 1 and no error flag is set (70_reset_and_hazards.md R129). -/
abbrev HostOp.WillSee (op : HostOp) (wdata : Word) (r : Regs) : Prop :=
  op = .wait ∨ (op = .takeIrq ∧ wdata.getLsbD 2 = true ∧ r.errRounds = false ∧ r.errBusy = false ∧ r.errAccess = false)

/-- ROUNDS rounds after the START the waiting operation shows that BUSY = 0 (70_reset_and_hazards.md R129). -/
theorem waitShowsIdle_of_willSee {op : HostOp} {r : Regs} {m : Mode} {wdata : Word} (hop : op.WillSee wdata r)
    (hr : r.rounds ≠ 0#32) :
    op.waitShowsIdle (Regs.engineSteps r.rounds.toNat ((r.setCtrl m (cmdIe wdata)).begin m)) = true := by
  have hc := Regs.engineSteps_start (r := r) rfl hr m (cmdIe wdata)
  rw [Regs.start_accepted hr] at hc
  obtain ⟨hidle, hdone, -⟩ := hc
  obtain rfl | ⟨rfl, hie, hrounds, hbusy, haccess⟩ := hop
  · rw [HostOp.waitShowsIdle, hidle]; rfl
  · obtain ⟨hie', hrounds', hbusy', haccess'⟩ := Regs.engineSteps_frame r.rounds.toNat ((r.setCtrl m (cmdIe wdata)).begin m)
    exact Regs.irqShowsIdle_of_done hidle hdone (hie'.trans hie) (hrounds'.trans hrounds) (hbusy'.trans hbusy)
      (haccess'.trans haccess)

/-- With nothing scheduled, ROUNDS rounds follow a START, and then the waiting operation ends the program (log 2). -/
theorem State.endState_unscheduled_start {s : State} {t : TxnWord} {op : HostOp} {m : Mode} {wdata : Word}
    (hop : op.WillSee wdata s.regs) (hs : s.sched = []) (hp : s.program = [.txn t, op]) (hd : decode t = startCommand m wdata)
    (hb : s.regs.busy = false) (hr : s.regs.rounds ≠ 0#32) :
    State.endState (s.regs.rounds.toNat + 2) false s =
      some (Regs.engineSteps s.regs.rounds.toNat ((s.regs.setCtrl m (cmdIe wdata)).begin m)) := by
  have ha : s.actsNext = .host := by simp [State.actsNext, hs, unscheduledAgent, hb]
  have hmem : op ∈ [HostOp.wait, HostOp.takeIrq] := by obtain rfl | ⟨rfl, -⟩ := hop <;> simp
  have hidle := waitShowsIdle_of_willSee (m := m) hop hr
  have hsched : (s.afterStart m wdata [op]).sched = [] := by simp [State.afterStart, hs]
  rw [State.endState_start ha hp hd hb hr, State.endState_unscheduled_busy s.regs.rounds.toNat hsched]
  · refine State.endState_of_showsIdle hmem ?_ rfl hidle 0
    obtain ⟨hidle', -⟩ := HostOp.waitEnds_of_showsIdle hidle
    simp only [State.actsNext, hsched, unscheduledAgent]
    exact if_neg (Bool.eq_false_iff.mp hidle')
  · intro j hj
    refine (Regs.engineSteps_busy (Regs.inv_begin m _ hr) rfl ?_).trans (decide_eq_true hj)
    exact hj.le

end Sys2Proof.Machine

/-! The statements of 60_exceptions.md. -/

namespace Sys2Proof.Machine

/-- Settles O18: the host observes BUSY = 0 only where its last operation waits, and from the START on the registers are those of the
operation in progress or completed. -/
theorem idleBlockKeepsItsState : Obligations.IdleBlockKeepsItsState := by
  refine ⟨fun s hp hb hact => ?_, fun n s hp => ?_, fun n s t later m wdata hs hp hd hb hr => ?_,
    fun n s t later m wdata r op hop hs hreset hp hd hb hr hend => ?_, fun s t m wdata op hop hs hp hd hb hr => ?_⟩
  · cases ha : s.actsNext with
    | host => exact step_host_nil ha hp
    | engine => rw [step_engine ha, Regs.engineStep_idle hb]
    | reset => exact absurd ha hact
  · rw [State.endState_of_ended (by simp [State.ended, hp]), State.regsAtEnd]
  · cases n with
    | zero => exact State.endState_zero (State.ended_of_cons hp)
    | succ n =>
      rw [State.endState_start (by rw [State.actsNext, hs]) hp hd hb hr]
      exact State.endState_awaits_nil n rfl
  · cases n with
    | zero => simp [State.endState_zero (State.ended_of_cons hp)] at hend
    | succ n =>
      rw [State.endState_start (by rw [State.actsNext, hs]) hp hd hb hr] at hend
      have hreset' : (s.afterStart m wdata [op]).NoReset := fun hmem => hreset (List.mem_of_mem_tail hmem)
      exact State.completed_of_endState hop hreset' rfl (.inl (Regs.inProgress_begin m _ hr)) hend
  · exact ⟨_, State.endState_unscheduled_start hop hs hp hd hb hr⟩

/-- Settles O48: a write's error event is the first of the gate's two and the START's, and a read has none. -/
theorem atMostOneErrorFlag : Obligations.AtMostOneErrorFlag := by
  intro we idx w s raised
  rw [decode_mk]
  cases we with
  | false =>
    refine ⟨_, exec_readInstr _ s, fun e _ => ?_⟩
    simp [raised]
  | true =>
    have hraised : raised = writeError (Reg.ofIdx idx) w s.regs := by
      simp only [raised, writeError, writeGate_spec, ← neverWritten_ofIdx, ← gatedByBusy_ofIdx, ← ofIdx_eq_ctrl_iff, true_and,
        Bool.and_eq_true]
      split_ifs <;> rfl
    refine ⟨_, exec_writeInstr _ w s, fun e he => ?_⟩
    have hdone : e ≠ .done := by rintro rfl; simp at he
    rw [State.writing_regs, Regs.gated_flag _ w _ hdone, hraised, beq_one_eq_isStatus, Bool.true_and]

/-- Settles O50: the acknowledgement clears the mask's flags, and WR_CTRL and START write IE and DONE. -/
theorem acknowledgeLowersIrq : Obligations.AcknowledgeLowersIrq := by
  refine ⟨fun w s hall => ?_, fun w s e he => ?_, fun w s hb hie => ?_, fun w s hb hr i hi => ?_⟩
  · have hclear : ∀ e, (s.regs.acknowledge w).flag e = false := by
      intro e
      rw [Regs.acknowledge_flag]
      cases hf : s.regs.flag e with
      | false => rfl
      | true => rw [hall e hf]; rfl
    exact ⟨_, exec_writeInstr .status w s, hclear, Regs.irq_of_no_flag hclear⟩
  · refine ⟨_, exec_writeInstr .status w s, (s.regs.acknowledge_flag w e).trans ?_⟩
    rw [he, Bool.not_true, Bool.and_false]
  · refine ⟨_, exec_ctrlWrite (i := .wrCtrl w) rfl rfl s, ?_⟩
    have hlow : (Regs.setCtrl (cmdMode w) (cmdIe w) s.regs).irq = false := by
      rw [Regs.irq, Regs.setCtrl_ie, cmdIe, hie, Bool.false_and]
    rw [hb]
    exact hlow
  · simp only [List.mem_cons, List.not_mem_nil, or_false] at hi
    obtain rfl | rfl := hi
    · exact ⟨_, exec_startCommand hb hr .encrypt w, rfl⟩
    · exact ⟨_, exec_startCommand hb hr .decrypt w, rfl⟩

/-- Settles O51: the round sets DONE whatever it was, and neither reads nor writes an error flag. -/
theorem clearBeforeCompletionKeepsDone : Obligations.ClearBeforeCompletionKeepsDone := by
  intro w s _ hb hlast
  have hb' : (s.regs.acknowledge w).busy = true := hb
  refine ⟨_, exec_writeInstr .status w s, ?_⟩
  change (s.regs.acknowledge w).engineStep = _ ∧ (s.regs.acknowledge w).engineStep.done = true ∧
    (s.regs.acknowledge w).engineStep.busy = false
  rw [Regs.engineStep_busy hb, Regs.engineStep_busy hb']
  simp [hlast, Regs.acknowledge, clearsErrRounds, clearsErrBusy, clearsErrAccess]

/-- Settles O60: the next state takes its own place in the list and no other. -/
theorem instancesShareNothing : Obligations.InstancesShareNothing := by
  intro p i s hi
  obtain ⟨t, ht⟩ := step_answers s
  have hq : stepInstance i p = .next (p.set i t) := by simp only [stepInstance, hi, ht]
  refine ⟨t, p.set i t, ht, hq, List.length_set, ?_, fun j hj => List.getElem?_set_ne hj.symm⟩
  exact List.getElem?_set_self (List.getElem?_eq_some_iff.mp hi).1

/-- Settles O49: the flags that drive the line, one after the other. -/
theorem interruptLine : Obligations.InterruptLine := by
  intro r
  simp [Regs.irq, Regs.anyEvent, or_assoc]

end Sys2Proof.Machine

/-! What the statements of 70_reset_and_hazards.md need beside the laws: the reset agent's turn, the ways BUSY changes, and the bytes of packed
material. -/

namespace Sys2Proof.Machine

/-! ### The reset agent's turn -/

/-- A scheduled reset resets every register and takes itself off the schedule (70_reset_and_hazards.md R118). -/
theorem step_scheduled_reset {s : State} {later : List Agent} (hs : s.sched = .reset :: later) :
    step s = .next { s with regs := Regs.reset, sched := later } := by
  rw [step, hs]
  rfl

/-! ### BUSY -/

/-- The host's turn by which BUSY rises is an accepted START (10_state.md R22; 42_commands.md R97). -/
theorem HostEffect.busy_rises {s : State} {q : Regs} (h : HostEffect s q) (hb : s.regs.busy = false) (hb' : q.busy = true) :
    s.regs.rounds ≠ 0#32 ∧ ∃ w, s.Issues (.cmdEncrypt w) ∨ s.Issues (.cmdDecrypt w) := by
  cases h with
  | started _ _ hi _ hr _ => exact ⟨hr, hi⟩
  | unchanged hq | refused _ _ hq | acknowledged _ _ hq | ctrlWritten _ _ hq | roundsWritten _ _ hq | keyWritten _ _ _ _ hq
  | dataWritten _ _ _ hq | startRefused _ _ _ hq => simp [hq, hb] at hb'

/-- The round by which BUSY falls is the last of its operation (40_round_transform.md R69). -/
theorem Regs.engineStep_busy_falls {r : Regs} (hb : r.busy = true) (hb' : r.engineStep.busy = false) : r.count + 1#32 = r.rounds := by
  simpa [Regs.engineStep_busy hb] using hb'

/-! ### The bytes of packed material -/

/-- The first `n` bytes of some material, read where it is shorter as 0 (70_reset_and_hazards.md R124, R125). -/
theorem ofFn_byteAt (n : Nat) (bs : List Byte) :
    List.ofFn (fun j : Fin n => byteAt bs j) = (bs ++ List.replicate n 0#8).take n := by
  apply List.ext_getElem
  · simp
  · intro j _ _
    rw [List.getElem_ofFn, List.getElem_take, List.getElem_append, byteAt, List.getD_eq_getElem?_getD]
    split_ifs with hj
    · simp [hj]
    · simp [List.getElem?_eq_none (Nat.le_of_not_lt hj)]

/-- Word `i` of packed material unpacks to bytes `4i .. 4i+3` of it (20_memory.md R33). -/
theorem unpackWord_wordAt (bs : List Byte) (i : Nat) :
    unpackWord (wordAt bs i) = [byteAt bs (4 * i), byteAt bs (4 * i + 1), byteAt bs (4 * i + 2), byteAt bs (4 * i + 3)] :=
  unpackWord_le32 _ _ _ _

/-- The 16 bytes of the key packed from some material (70_reset_and_hazards.md R124). -/
theorem unpackKey_packKey (bs : List Byte) : unpackKey (packKey bs) = List.ofFn (fun j : Fin 16 => byteAt bs j) := by
  simp only [unpackKey, packKey, unpackWord_wordAt]
  rfl

/-- The 8 bytes of the block packed from some input (70_reset_and_hazards.md R125). -/
theorem unpackBlock_packBlock (bs : List Byte) : unpackBlock (packBlock bs) = List.ofFn (fun j : Fin 8 => byteAt bs j) := by
  simp only [unpackBlock, packBlock, unpackWord_wordAt]
  rfl

end Sys2Proof.Machine

/-! The statements of 70_reset_and_hazards.md. -/

namespace Sys2Proof.Machine

/-- Settles O30: each operation completes with `transform` of KEY, ROUNDS, MODE and DATA, which the two have in common. -/
theorem resultDependsOnInputsOnly : Obligations.ResultDependsOnInputsOnly := by
  intro r q m ie ie' _ _ hr hkey hrounds hdata
  obtain ⟨hidle, -, -, hresult⟩ := Regs.engineSteps_start rfl hr m ie
  obtain ⟨-, -, -, hresult'⟩ := Regs.engineSteps_start rfl (hrounds ▸ hr) m ie'
  refine ⟨?_, hidle⟩
  rw [hresult, hresult', hkey, hrounds, hdata]

/-- Settles O56: only an accepted START of the host's turns sets BUSY and none clears it, and the engine sets it in none of its turns. -/
theorem busyChangesOnlyByStartCompletionReset : Obligations.BusyChangesOnlyByStartCompletionReset := by
  intro s t h
  refine ⟨fun hb hb' => ?_, fun hb hb' => ?_⟩
  · obtain ⟨-, heff⟩ | ⟨-, hq⟩ | ⟨-, hq⟩ := step_effect h
    · exact heff.busy_rises hb hb'
    · simp [hq, Regs.engineStep_idle hb, hb] at hb'
    · rw [hq] at hb'
      cases hb'
  · obtain ⟨-, heff⟩ | ⟨ha, hq⟩ | ⟨ha, -⟩ := step_effect h
    · simp [(heff.sameOperation hb).busy, hb] at hb'
    · exact .inr ⟨ha, Regs.engineStep_busy_falls hb (hq ▸ hb')⟩
    · exact .inl ha

/-- Settles O58: the packed words hold the material's first bytes, 0 past its end. -/
theorem materialIsTruncatedOrZeroExtended : Obligations.MaterialIsTruncatedOrZeroExtended := by
  refine ⟨fun bs => ?_, fun bs hlen => ?_⟩
  · rw [unpackKey_packKey, ofFn_byteAt]
  · rw [unpackBlock_packBlock, ofFn_byteAt, List.take_append, List.take_of_length_le hlen, List.take_replicate,
      Nat.min_eq_left (Nat.sub_le 8 bs.length)]

/-- Settles O14: the turn leaves the record of `Regs.reset`, whatever the state was. -/
theorem resetStepFromAnyState : Obligations.ResetStepFromAnyState :=
  fun _ _ hs => ⟨_, step_scheduled_reset hs, resetValues⟩

end Sys2Proof.Machine
